-- ==== Sys2Proof/Word.lean ====
section
/-! DEFINITION. The word types of TS-DEMUX (spec 00_scope.md R9, R13, R15): bytes, byte sequences and the
named field widths. A value the device adds, masks or compares bit by bit is a `BitVec`; a count, a length
or a bit position is a `Nat`. -/

namespace Sys2Proof

/-- One byte (R13). Bit 7 is the most significant (R14). -/
abbrev Byte := BitVec 8

/-- A byte sequence `B` of R13: `B[i]` is byte `i`, counted from 0. -/
abbrev Bytes := List Byte

/-- A 13-bit packet identifier (R9). -/
abbrev Pid := BitVec 13

/-- A 16-bit wrapping RTP sequence number (R9, R18). -/
abbrev SeqNum := BitVec 16

/-- A 4-bit continuity counter, modulo 16 (R9). -/
abbrev Cc := BitVec 4

end Sys2Proof
end

