-- ==== Sys2Proof/Config.lean ====
section
/-! DEFINITION. The constants the source fixes (R9) and the five parameters an implementation fixes (R10).
The parameters are a plain record that `Machine.State` carries and no step writes: a claim quantifies over
every value of them. -/

namespace Sys2Proof.Config

/-- `TS_PKT` (R9): the length of a transport packet in bytes. -/
def tsPkt : Nat := 188

/-- `SYNC` (R9). -/
def syncByte : Byte := 0x47#8

/-- `MAX_SECTION_LENGTH` (R9, R96): the largest legal declared section_length. -/
def maxSectionLength : Nat := 4093

/-- The size of the RTP sequence space (R9, R44): 2^16 numbers. -/
def seqSpace : Nat := 65536

/-- The parameters of R10, fixed for the lifetime of a device instance. -/
structure Params where
  /-- `RESYNC_WINDOW`: the largest number of bytes one resynchronisation may skip. -/
  resyncWindow : Nat
  /-- `FEC_RETAIN`: how many consecutive sequence numbers the FEC unit keeps. -/
  fecRetain : Nat
  /-- `FEC_DEADLINE`: how far the newest number may run ahead of an undelivered one. -/
  fecDeadline : Nat
  /-- `FEC_PAR_CAP`: how many parity packets are held. -/
  fecParCap : Nat
  /-- `FEC_SLOT_BYTES`: the size of one pooled buffer slot. -/
  fecSlotBytes : Nat
  deriving DecidableEq, Repr

/-- The constraints of R10's table. -/
abbrev Params.Valid (p : Params) : Prop :=
  1 ≤ p.resyncWindow ∧ 1 ≤ p.fecRetain ∧ p.fecRetain < 32768 ∧ 1 ≤ p.fecDeadline ∧
    p.fecDeadline ≤ p.fecRetain ∧ 1 ≤ p.fecParCap ∧ 28 ≤ p.fecSlotBytes

/-- DESIGN CHOICE, unsafe (log entry 1): the values R10 lists as "value in test vectors". The spec leaves the
five values open; no statement rests on these. -/
def vectorParams : Params :=
  { resyncWindow := 376, fecRetain := 64, fecDeadline := 32, fecParCap := 16, fecSlotBytes := 1500 }

end Sys2Proof.Config
end

