-- ==== Sys2Proof/Syntax.lean ====
section
/-! DEFINITION. The instructions of TS-DEMUX: one constructor of `Instr` per row of spec/opcode_table.json
(R125), with every bit of the unit the row matches, the bits no rule consults among them. The device runs no
program: its instructions are the host transactions and the wire units it parses (R1, D44). -/

namespace Sys2Proof

/-- The three datagram ports (R44 e). -/
inductive Port where
  | main
  | col
  | row
  deriving DecidableEq, Repr

/-- A program clock reference (R93): 33-bit base and 9-bit extension. -/
structure Pcr where
  base : BitVec 33
  ext : BitVec 9
  deriving DecidableEq, Repr

/-- An entry of the PCR registry (R34). -/
inductive PcrEntry where
  /-- No PMT has been processed on this PID. -/
  | absent
  /-- The entry exists and no PCR has been observed. -/
  | noPcr
  /-- The most recently observed PCR. -/
  | seen (pcr : Pcr)
  deriving DecidableEq, Repr

/-- The form of a filter slot with its fields but for the reassembler state: what R30 compares, and the
selector of the FILTER rows (R125 item 3). -/
inductive Form where
  | empty
  | pat
  | pmt (programNumber : BitVec 16)
  | null
  | scte35 (elementaryPid pcrKey : Pid)
  | pcrWatch (pcrKey : Pid)
  deriving DecidableEq, Repr

/-- The fields of the 4-byte TS header that no TS row fixes (R91): the sync byte and the
adaptation_field_control are given by the row. -/
structure TsHeader where
  transportError : BitVec 1
  pusi : BitVec 1
  priority : BitVec 1
  pid : Pid
  scrambling : BitVec 2
  cc : Cc
  deriving DecidableEq, Repr

/-- The arguments of `ROUTE(pid, pusi, cc, pcr, payload)` (R162). -/
structure RouteUnit where
  pid : Pid
  pusi : BitVec 1
  cc : Cc
  pcr : Option Pcr
  payload : Option Bytes
  deriving DecidableEq, Repr

/-- Bytes 1 and 2 of a section (R96), after the table_id. -/
structure SectionHeader where
  syntaxIndicator : BitVec 1
  privateIndicator : BitVec 1
  reserved : BitVec 2
  sectionLength : BitVec 12
  deriving DecidableEq, Repr

/-- The arguments of `SPLICE(buf, src_pid, pcr)` (R250), with `buf` split at the fields of R96 and R102. The
encrypted_packet bit and the splice_command_type are given by the row. -/
structure SpliceUnit where
  srcPid : Option Pid
  pcr : Option PcrEntry
  tableId : Byte
  common : SectionHeader
  protocolVersion : Byte
  encryptionAlgorithm : BitVec 6
  ptsAdjustment : BitVec 33
  cwIndex : Byte
  tier : BitVec 12
  commandLength : BitVec 12
  body : Bytes
  deriving DecidableEq, Repr

/-- The bytes of a splice_insert body that is not cancelled (R104), up to the flag bits that a row fixes. -/
structure InsertUnit where
  eventId : BitVec 32
  reserved : BitVec 7
  networkIndicator : BitVec 1
  reserved2 : BitVec 4
  rest : Bytes
  deriving DecidableEq, Repr

/-- The fields of the 12-byte RTP header that a valid header leaves free (R115, R302). -/
structure RtpHeader where
  marker : BitVec 1
  payloadType : BitVec 7
  seq : SeqNum
  timestamp : BitVec 32
  ssrc : BitVec 32
  deriving DecidableEq, Repr

/-- A parity datagram (R118): RTP header, 16-byte FEC header, parity payload. -/
structure FecUnit where
  rtp : RtpHeader
  snbase : SeqNum
  lenrec : BitVec 16
  extension : BitVec 1
  ptRecovery : BitVec 7
  mask : BitVec 24
  tsRecovery : BitVec 32
  n : BitVec 1
  d : BitVec 1
  fecType : BitVec 3
  index : BitVec 3
  offset : Byte
  na : Byte
  snbaseExt : Byte
  payload : Bytes
  deriving DecidableEq, Repr

/-- One constructor per row of spec/opcode_table.json, in the table's order. -/
inductive Instr where
  /-- RESET (R361). -/
  | reset
  /-- CONFIG (R362) with its operand byte. -/
  | config (cfg : Byte)
  /-- PUSH (R363). -/
  | push (bytes : Bytes)
  /-- EOF (R364). -/
  | eof
  /-- DGRAM.MAIN (R366). -/
  | dgramMain (g : Bytes)
  /-- DGRAM.COL (R366). -/
  | dgramCol (g : Bytes)
  /-- DGRAM.ROW (R366). -/
  | dgramRow (g : Bytes)
  /-- SECTION (R367): the literal path. -/
  | literalSection (buf : Bytes)
  /-- RXERR (R368). -/
  | rxerr
  /-- HOST.ILLEGAL (R369): a command code of 0x09 or above, with whatever operand came with it. -/
  | hostIllegal (code : Byte) (operand : Bytes)
  /-- CONFIG.FILE (R362): operand 0x01. -/
  | configFile
  /-- CONFIG.NET.RAW (R362): operand 0x02. -/
  | configNetRaw
  /-- CONFIG.SECTION (R362): operand 0x03. -/
  | configSection
  /-- CONFIG.NET.RTP (R362): operand 0x0A. -/
  | configNetRtp
  /-- CONFIG.NET.RTP.FEC (R362): operand 0x0E. -/
  | configNetRtpFec
  /-- CONFIG.ILLEGAL (R362): any other operand. -/
  | configIllegal (cfg : Byte)
  /-- TS.PAYLOAD (R159): adaptation_field_control 01; `body` is bytes 4 to 187. -/
  | tsPayload (h : TsHeader) (body : Bytes)
  /-- TS.ADAPT (R159): adaptation_field_control 10. -/
  | tsAdapt (h : TsHeader) (body : Bytes)
  /-- TS.ADAPT.PAYLOAD (R159): adaptation_field_control 11. -/
  | tsAdaptPayload (h : TsHeader) (body : Bytes)
  /-- TS.AFC.RESERVED (R160): adaptation_field_control 00. -/
  | tsAfcReserved (h : TsHeader) (body : Bytes)
  /-- TS.NOSYNC (R153): bytes whose first is not 0x47. -/
  | tsNosync (bytes : Bytes)
  /-- ROUTE.EMPTY (R163). -/
  | routeEmpty (u : RouteUnit)
  /-- ROUTE.NULL (R164). -/
  | routeNull (u : RouteUnit)
  /-- ROUTE.PAT (R191). -/
  | routePat (u : RouteUnit)
  /-- ROUTE.PMT (R191). -/
  | routePmt (programNumber : BitVec 16) (u : RouteUnit)
  /-- ROUTE.SCTE35 (R191). -/
  | routeScte35 (elementaryPid pcrKey : Pid) (u : RouteUnit)
  /-- ROUTE.PCRWATCH (R167). -/
  | routePcrwatch (pcrKey : Pid) (u : RouteUnit)
  /-- SEC.PAT (R221): a section of table_id 0x00, on PID `pid` or (none) on the literal path. -/
  | secPat (pid : Option Pid) (h : SectionHeader) (body : Bytes)
  /-- SEC.PMT (R225): table_id 0x02. -/
  | secPmt (pid : Option Pid) (h : SectionHeader) (body : Bytes)
  /-- SEC.SPLICE (R250): table_id 0xFC. -/
  | secSplice (pid : Option Pid) (h : SectionHeader) (body : Bytes)
  /-- SEC.STUFFING (R195): 0xFF where a table_id is expected. -/
  | secStuffing (pid : Option Pid) (rest : Bytes)
  /-- SEC.OTHER (R202): any other table_id. -/
  | secOther (pid : Option Pid) (tableId : Byte) (h : SectionHeader) (body : Bytes)
  /-- SPLICE.ENCRYPTED (R256): encrypted_packet 1. -/
  | spliceEncrypted (commandType : Byte) (u : SpliceUnit)
  /-- SPLICE_NULL (R262): type 0x00. -/
  | spliceNull (u : SpliceUnit)
  /-- SPLICE_SCHEDULE (R263): type 0x04. -/
  | spliceSchedule (u : SpliceUnit)
  /-- SPLICE_INSERT (R264): type 0x05. -/
  | spliceInsert (u : SpliceUnit)
  /-- TIME_SIGNAL (R271): type 0x06. -/
  | timeSignal (u : SpliceUnit)
  /-- BANDWIDTH_RESERVATION (R272): type 0x07. -/
  | bandwidthReservation (u : SpliceUnit)
  /-- PRIVATE_COMMAND (R273): type 0xFF. -/
  | privateCommand (u : SpliceUnit)
  /-- SPLICE.RESERVED (R274): any other type. -/
  | spliceReserved (tag : Byte) (u : SpliceUnit)
  /-- INSERT.CANCEL (R265): a splice_insert body with cancel_indicator 1; `rest` follows body byte 4. -/
  | insertCancel (src : Option Pid) (eventId : BitVec 32) (reserved : BitVec 7) (rest : Bytes)
  /-- INSERT.PROGRAM.TIMED (R266). -/
  | insertProgramTimed (src : Option Pid) (durationFlag : BitVec 1) (u : InsertUnit)
  /-- INSERT.PROGRAM.IMMEDIATE (R266). -/
  | insertProgramImmediate (src : Option Pid) (durationFlag : BitVec 1) (u : InsertUnit)
  /-- INSERT.COMPONENT.TIMED (R267). -/
  | insertComponentTimed (src : Option Pid) (durationFlag : BitVec 1) (u : InsertUnit)
  /-- INSERT.COMPONENT.IMMEDIATE (R267). -/
  | insertComponentImmediate (src : Option Pid) (durationFlag : BitVec 1) (u : InsertUnit)
  /-- INSERT.DURATION (R268): the break duration of a body with duration_flag 1, whatever its other flags. -/
  | insertDuration (src : Option Pid) (programSplice spliceImmediate : BitVec 1) (u : InsertUnit)
  /-- SPLICE_TIME.SPECIFIED (R261): first byte 1rrrrrrp, then the bytes that follow it. -/
  | spliceTimeSpecified (src : Option Pid) (reserved : BitVec 6) (ptsMsb : BitVec 1) (rest : Bytes)
  /-- SPLICE_TIME.UNSPECIFIED (R261): first byte 0rrrrrrr. -/
  | spliceTimeUnspecified (src : Option Pid) (reserved : BitVec 7) (rest : Bytes)
  /-- SPLICE_DESCRIPTOR (R280): tag, length, and the bytes up to the end of the loop. -/
  | spliceDescriptor (src : Option Pid) (tag len : Byte) (rest : Bytes)
  /-- PMT.REGISTRATION.CUEI (R230): tag 0x05, a length of at least 4, "CUEI", then the rest of the loop. -/
  | pmtRegistrationCuei (pid : Pid) (len : Byte) (rest : Bytes)
  /-- MAIN.RAW (R301): a main datagram when CFG selects raw UDP. -/
  | mainRaw (g : Bytes)
  /-- MAIN.RTP (R305): a main datagram when CFG selects RTP without FEC. -/
  | mainRtp (g : Bytes)
  /-- MAIN.RTP.FEC (R323): a main datagram when CFG selects RTP with FEC. -/
  | mainRtpFec (g : Bytes)
  /-- RTP.V2 (R302): a datagram with a valid 12-byte RTP header. -/
  | rtpV2 (port : Port) (h : RtpHeader) (payload : Bytes)
  /-- RTP.MALFORMED (R303). -/
  | rtpMalformed (port : Port) (g : Bytes)
  /-- FEC.COL (R321). -/
  | fecCol (u : FecUnit)
  /-- FEC.ROW (R321). -/
  | fecRow (u : FecUnit)
  /-- FEC.MALFORMED (R322). -/
  | fecMalformed (port : Port) (g : Bytes)
  /-- BR.INIT (R131). -/
  | brInit (buf : Bytes) (p : Nat)
  /-- BR.READ (R132): the width is 0 to 64. -/
  | brRead (n : Fin 65)
  /-- BR.SKIP (R133). -/
  | brSkip (n : Nat)
  /-- BR.POS (R134). -/
  | brPos
  /-- BR.ALIGNED (R134). -/
  | brAligned
  deriving DecidableEq, Repr

/-- One pending unit of input with the arguments its procedure takes: what the decoder reads. A `host` request
is a host transaction (R120), the only kind a host sends (log entry 2); every other kind names the unit whose
rows it selects among (R125). -/
inductive Request where
  /-- Command code, then operand (R120). -/
  | host (code : Byte) (operand : Bytes)
  /-- The operand byte of CONFIG (R24). -/
  | cfg (operand : Byte)
  /-- Bytes at the head of the stream (R91, R153). -/
  | ts (bytes : Bytes)
  /-- A routed packet (R162). -/
  | route (u : RouteUnit)
  /-- A complete section (R96). -/
  | sec (pid : Option Pid) (bytes : Bytes)
  /-- A section buffer with its CRC stripped (R250). -/
  | splice (src : Option Pid) (pcr : Option PcrEntry) (bytes : Bytes)
  /-- A splice_insert body (R104). -/
  | insert (src : Option Pid) (bytes : Bytes)
  /-- The break duration of a splice_insert body (R106, R268). -/
  | duration (src : Option Pid) (bytes : Bytes)
  /-- A splice_time and what follows it (R105). -/
  | spliceTime (src : Option Pid) (bytes : Bytes)
  /-- A splice descriptor and the rest of its loop (R109). -/
  | descriptor (src : Option Pid) (bytes : Bytes)
  /-- A PMT descriptor and the rest of its loop (R100). -/
  | pmtDescriptor (pid : Pid) (bytes : Bytes)
  /-- A main datagram, to be taken as CFG says (R125 item 7). -/
  | mainDgram (g : Bytes)
  /-- A datagram whose RTP header is to be parsed (R302). -/
  | rtp (port : Port) (g : Bytes)
  /-- A parity datagram (R321). -/
  | fec (port : Port) (g : Bytes)
  /-- BR.INIT(buf, p), `p` being a position in `buf` or its end (R131). -/
  | brInit (buf : Bytes) (p : Fin (8 * buf.length + 1))
  /-- BR.READ(n), `n` being a width of R132's range. -/
  | brRead (n : Fin 65)
  /-- BR.SKIP(n) (R133). -/
  | brSkip (n : Nat)
  /-- BR.POS() (R134). -/
  | brPos
  /-- BR.ALIGNED() (R134). -/
  | brAligned
  deriving DecidableEq, Repr

/-- Whether a request is a host transaction (R120). -/
def Request.isHost : Request → Bool
  | .host _ _ => true
  | .cfg _ | .ts _ | .route _ | .sec _ _ | .splice _ _ _ | .insert _ _ | .duration _ _ | .spliceTime _ _
  | .descriptor _ _ | .pmtDescriptor _ _ | .mainDgram _ | .rtp _ _ | .fec _ _ | .brInit _ _ | .brRead _
  | .brSkip _ | .brPos | .brAligned => false

/-- The selectors that are state and not bits (R125 items 3 and 7): the form of the filter slot of the
request's PID, and the CFG register. -/
structure Keys where
  form : Form
  cfg : Byte
  deriving DecidableEq, Repr

end Sys2Proof
end

