-- ==== Sys2Proof/Machine/State.lean ====
section
/-! DEFINITION. The state of TS-DEMUX as plain data: the tuple of R20, the output event stream (R46), the
transient unit state (R40, R43), and the model's own `params` and `inbox`. -/

namespace Sys2Proof.Machine

/-! ## Output values (R260, R286, R392) -/

/-- A splice_time (R260, R261). -/
inductive SpliceTime where
  | immediate
  | timed (pts : Option (BitVec 33))
  deriving DecidableEq, Repr

/-- network_indicator (R104): 0 In, 1 Out. -/
inductive NetworkIndicator where
  | inward
  | outward
  deriving DecidableEq, Repr

/-- return_mode (R106): 1 Automatic, 0 Manual. -/
inductive ReturnMode where
  | automatic
  | manual
  deriving DecidableEq, Repr

/-- A SpliceDuration (R260). -/
structure SpliceDuration where
  returnMode : ReturnMode
  duration : BitVec 33
  deriving DecidableEq, Repr

/-- One component of a component-mode splice_insert (R260, R267). -/
structure SpliceComponent where
  tag : Byte
  time : SpliceTime
  deriving DecidableEq, Repr

/-- The splice_mode of R260. -/
inductive SpliceMode where
  | program (t : SpliceTime)
  | components (cs : List SpliceComponent)
  deriving DecidableEq, Repr

/-- The fields of a splice_insert that is not cancelled (R260). -/
structure InsertDetail where
  networkIndicator : NetworkIndicator
  spliceMode : SpliceMode
  duration : Option SpliceDuration
  uniqueProgramId : BitVec 16
  availNum : Byte
  availsExpected : Byte
  deriving DecidableEq, Repr

/-- The decoded command (R260). `spliceInsert id none` is the cancelled form, cancel_indicator 1. -/
inductive SpliceCommand where
  | spliceNull
  | spliceSchedule (raw : Bytes)
  | spliceInsert (eventId : BitVec 32) (detail : Option InsertDetail)
  | timeSignal (t : SpliceTime)
  | bandwidthReservation
  | privateCommand (raw : Bytes)
  | reserved (tag : Byte) (raw : Bytes)
  | encrypted (raw : Bytes)
  deriving DecidableEq, Repr

/-- The nine header values of R252 and R286. -/
structure SpliceHeader where
  tableId : Byte
  protocolVersion : Byte
  encryptedPacket : BitVec 1
  encryptionAlgorithm : BitVec 6
  ptsAdjustment : BitVec 33
  cwIndex : Byte
  tier : BitVec 12
  commandLength : BitVec 12
  commandType : Byte
  deriving DecidableEq, Repr

/-- The exceptions of R392, each with its payload; a PID is `none` on the literal path. -/
inductive Exn where
  /-- SYNC_RESYNC: bytes skipped. -/
  | x01 (k : Nat)
  /-- SYNC_LOST, fatal. -/
  | x02
  /-- TRAILING_BYTES: bytes dropped. -/
  | x03 (n : Nat)
  /-- PACKET_MALFORMED. -/
  | x04 (pid : Pid)
  /-- SECTION_TOO_LONG: the declared section_length. -/
  | x05 (pid : Option Pid) (sectionLength : BitVec 12)
  /-- CC_GAP. -/
  | x06 (pid : Pid)
  /-- POINTER_INVALID. -/
  | x07 (pid : Pid)
  /-- CRC_MISMATCH. -/
  | x08 (pid : Option Pid)
  /-- TABLE_ID_UNEXPECTED. -/
  | x09 (pid : Option Pid) (tableId : Byte)
  /-- PSI_MALFORMED. -/
  | x10 (pid : Pid)
  /-- SPLICE_TRUNCATED. -/
  | x11 (pid : Option Pid)
  /-- COMMAND_UNSUPPORTED: the splice_command_type. -/
  | x12 (pid : Option Pid) (commandType : Byte)
  /-- BIT_ALIGNMENT. -/
  | x13 (pid : Option Pid)
  /-- NETWORK_INDICATOR_INVALID: never raised (R278). -/
  | x14 (pid : Option Pid)
  /-- DESCRIPTOR_OVERRUN. -/
  | x15 (pid : Option Pid)
  /-- RTP_MALFORMED. -/
  | x16 (port : Port)
  /-- RTP_DISCONTINUITY. -/
  | x17 (expected got : SeqNum)
  /-- FEC_MALFORMED. -/
  | x18 (port : Port)
  /-- RX_ERROR, fatal. -/
  | x19
  /-- COMMAND_ILLEGAL: the command code. -/
  | x20 (code : Byte)
  /-- DGRAM_OVERSIZE: the datagram's length. -/
  | x21 (port : Port) (length : Nat)
  /-- PROGRAM_MISMATCH: the program_number found. -/
  | x22 (pid : Pid) (programNumber : BitVec 16)
  /-- SECTION_CUT. -/
  | x23 (pid : Pid)
  /-- FEC_RECOVERY_INVALID: the port of the parity record. -/
  | x24 (port : Port)
  deriving DecidableEq, Repr

/-- One record of the output event stream (R46). -/
inductive Event where
  /-- EV_SPLICE (R286). -/
  | splice (srcPid : Option Pid) (header : SpliceHeader) (command : SpliceCommand) (annotation : Option Int)
  /-- EV_DESCRIPTOR (R287). -/
  | descriptor (srcPid : Option Pid) (tag : Byte) (bytes : Bytes)
  /-- An exception event (R391). -/
  | exn (x : Exn)
  deriving DecidableEq, Repr

/-! ## State elements -/

/-- `MODE` (R25): the six values that occur. -/
inductive Mode where
  | idle
  | file
  | net
  | sec
  | done
  | fatal
  deriving DecidableEq, Repr

/-- The reassembler state of a section filter (R33). -/
structure Reasm where
  lastCc : Option Cc
  acc : Option Bytes
  deriving DecidableEq, Repr

/-- A fresh reassembler (R31, R33). -/
def Reasm.fresh : Reasm := { lastCc := none, acc := none }

/-- A filter slot (R28, R29). -/
inductive Slot where
  | empty
  | pat (r : Reasm)
  | pmt (programNumber : BitVec 16) (r : Reasm)
  | null
  | scte35 (elementaryPid pcrKey : Pid) (r : Reasm)
  | pcrWatch (pcrKey : Pid)
  deriving DecidableEq, Repr

/-- A parity record of `F_PAR` (R38). -/
structure ParityRec where
  port : Port
  snbase : SeqNum
  offset : Byte
  na : Byte
  lenrec : BitVec 16
  payload : Bytes
  deriving DecidableEq, Repr

/-- The bit reader `br` (R43, R130). -/
structure BitReader where
  buf : Bytes
  pos : Nat
  deriving DecidableEq, Repr

/-- What the last unit-level operation returned to its caller: the return value of the procedures that have one
(R132 to R134, R261, R264, R268, R225, R302). -/
inductive UnitResult where
  | none
  /-- BR.READ. -/
  | value (v : Nat)
  /-- BR.SKIP. -/
  | ok
  /-- BR.READ or BR.SKIP past the end of the buffer. -/
  | underrun
  /-- BR.POS. -/
  | position (p : Nat)
  /-- BR.ALIGNED. -/
  | aligned (b : Bool)
  /-- SPLICE_TIME(). -/
  | time (t : SpliceTime)
  /-- DURATION(). -/
  | duration (d : SpliceDuration)
  /-- The command of a splice_insert body. -/
  | command (c : SpliceCommand)
  /-- A descriptor that marks its stream CUEI-registered. -/
  | cueiRegistered
  /-- RTP.PARSE: sequence number and payload. -/
  | rtp (seq : SeqNum) (payload : Bytes)
  deriving DecidableEq, Repr

/-- The state of the machine. `params` and `inbox` are the model's own (log entries 1 and 2). -/
structure State where
  /-- The parameters of R10; no step writes them. -/
  params : Config.Params
  /-- `MODE` (R25). -/
  mode : Mode
  /-- `FATAL_CODE` (R25). -/
  fatalCode : BitVec 8
  /-- `CFG` (R24). -/
  cfg : BitVec 8
  /-- `PKTBUF` (R26), oldest byte first. -/
  pktbuf : Bytes
  /-- `FT[0..8191]` (R28): the slots that are not Empty, by rising PID. -/
  ft : List (Nat × Slot)
  /-- `PCRREG[0..8191]` (R34): the entries that are not Absent, by rising PID. -/
  pcrreg : List (Nat × PcrEntry)
  /-- `RTP_LAST` (R35). -/
  rtpLast : Option SeqNum
  /-- `F_HI` (R36). -/
  fHi : Option SeqNum
  /-- `F_NEXT` (R36). -/
  fNext : Option SeqNum
  /-- `F_STORE` (R37): payload by rising sequence number. -/
  fStore : List (Nat × Bytes)
  /-- `F_PAR` (R38), oldest record first. -/
  fPar : List ParityRec
  /-- The output event stream (R46), oldest event first. -/
  events : List Event
  /-- The bit reader (R43), transient: the empty reader between host transactions. -/
  br : BitReader
  /-- The return value of the last unit-level operation, transient. -/
  result : UnitResult
  /-- The input the host has presented and the device has not yet taken, oldest first. -/
  inbox : List Request
  deriving DecidableEq, Repr

/-- Why a step stops with a fault: there is no such reason. The exceptions of R392 are events and next states, and a
request that is the unit of no row has an effect too (`offTable`, log entry 9). -/
inductive Fault where
  deriving DecidableEq, Repr

/-- Why an instruction is refused. -/
inductive Refusal where
  /-- The dispatch arm of an instruction that has no meaning yet; no arm of this model answers it. Safe. -/
  | notModelled (mnemonic : String)
  deriving DecidableEq, Repr

/-- The machine right after reset (R48, R440, R441): every element at the value of R48's table. The event stream is
empty at power-on; `params` and `inbox` are log entries 1 and 2. -/
def State.reset : State :=
  { params := Config.vectorParams
    mode := .idle
    fatalCode := 0#8
    cfg := 0#8
    pktbuf := []
    ft := []
    pcrreg := []
    rtpLast := none
    fHi := none
    fNext := none
    fStore := []
    fPar := []
    events := []
    br := { buf := [], pos := 0 }
    result := .none
    inbox := [] }

end Sys2Proof.Machine
end

