-- ==== Sys2Proof/Machine/Flags.lean ====
section
/-! DEFINITION. The device has no condition codes (R27). What plays the part of flags is here: the circular
comparisons of sequence numbers (R18), the continuity test (R192), and the STATUS register (R25, R371). -/

namespace Sys2Proof.Machine

/-- `dist_16(a, b)` (R18): how far `b` is ahead of `a`. -/
def dist (a b : SeqNum) : Nat := (b - a).toNat

/-- "`b` is newer than `a`" (R18). -/
def newer (a b : SeqNum) : Bool := 0 < dist a b && dist a b < 32768

/-- A continuity gap (R192): any value but the successor of the last, the same value among them. -/
def ccGap (last : Option Cc) (cc : Cc) : Bool :=
  match last with
  | none => false
  | some c => cc != c + 1#4

/-- The encoding of `MODE` (R25). -/
def Mode.code : Mode → BitVec 3
  | .idle => 0#3
  | .file => 1#3
  | .net => 2#3
  | .sec => 3#3
  | .done => 4#3
  | .fatal => 7#3

/-- STATUS (R25, R371): MODE in bits 2 to 0, FATAL_CODE in bits 15 to 8, the other bits 0. -/
def status (s : State) : BitVec 16 := s.fatalCode ++ 0#5 ++ s.mode.code

/-- `CFG[2] = fec` (R24): ProMpeg. -/
def fecOn (s : State) : Bool := s.cfg.getLsbD 2

/-- `CFG[3] = transport` (R24): RTP. -/
def rtpOn (s : State) : Bool := s.cfg.getLsbD 3

end Sys2Proof.Machine
end

