-- ==== Sys2Proof/WellFormed.lean ====
section
/-! DEFINITION. Which terms of `Instr` are units of the spec: the selectors that a catch-all row excludes, the
lengths a unit's own fields declare, and the ranges of operands. The decoder answers only well-formed terms. -/

namespace Sys2Proof

/-- A datagram that fails the checks of R302: under 12 bytes, or a first byte other than 0x80 (version 2, no
padding, no extension, CSRC count 0). -/
def rtpBad (g : Bytes) : Bool := g.length < 12 || g.headD 0 != 0x80#8

/-- A parity datagram that R322 refuses: bad RTP header, under 28 bytes, offset 0 or NA 0 (bytes 13 and 14 of the
FEC header, which starts at byte 12, R118). -/
def fecBad (g : Bytes) : Bool :=
  rtpBad g || g.length < 28 || g.getD 25 0 == 0#8 || g.getD 26 0 == 0#8

/-- A command code that R120's table does not list. -/
def illegalCode (code : Byte) : Bool := 9 ≤ code.toNat

/-- The operands of CONFIG that R362 lists as legal. -/
def legalCfg (cfg : Byte) : Bool :=
  cfg == 0x01#8 || cfg == 0x02#8 || cfg == 0x03#8 || cfg == 0x0A#8 || cfg == 0x0E#8

/-- The splice_command_types of R103's table that have a row of their own. -/
def namedCommand (t : Byte) : Bool :=
  t == 0x00#8 || t == 0x04#8 || t == 0x05#8 || t == 0x06#8 || t == 0x07#8 || t == 0xFF#8

/-- The table_ids that have a row of their own. -/
def namedTableId (t : Byte) : Bool := t == 0x00#8 || t == 0x02#8 || t == 0xFC#8 || t == 0xFF#8

/-- A payload handed to ROUTE is 1 to 184 bytes long (R161, R191). -/
def RouteUnit.wf (u : RouteUnit) : Bool :=
  match u.payload with
  | none => true
  | some d => 1 ≤ d.length && d.length ≤ 184

/-- A section of a legal declared length has exactly that many bytes after its header (R96); after an illegal
length nothing is known of where it ends (R198). -/
def SectionHeader.bodyOk (h : SectionHeader) (body : Bytes) : Bool :=
  Config.maxSectionLength < h.sectionLength.toNat || body.length == h.sectionLength.toNat

/-- Well-formed instructions. -/
def Instr.wf : Instr → Bool
  | .reset | .eof | .rxerr => true
  | .config _ | .push _ | .dgramMain _ | .dgramCol _ | .dgramRow _ | .literalSection _ => true
  | .hostIllegal code _ => illegalCode code
  | .configFile | .configNetRaw | .configSection | .configNetRtp | .configNetRtpFec => true
  | .configIllegal cfg => !legalCfg cfg
  | .tsPayload _ body | .tsAdapt _ body | .tsAdaptPayload _ body | .tsAfcReserved _ body => body.length == 184
  | .tsNosync bytes => !bytes.isEmpty && bytes.headD 0 != Config.syncByte
  | .routeEmpty u | .routeNull u | .routePat u | .routePmt _ u | .routeScte35 _ _ u | .routePcrwatch _ u => u.wf
  | .secPat _ h body | .secPmt _ h body | .secSplice _ h body => h.bodyOk body
  | .secStuffing _ _ => true
  | .secOther _ t h body => !namedTableId t && h.bodyOk body
  | .spliceEncrypted _ _ | .spliceNull _ | .spliceSchedule _ | .spliceInsert _ | .timeSignal _
  | .bandwidthReservation _ | .privateCommand _ => true
  | .spliceReserved tag _ => !namedCommand tag
  | .insertCancel _ _ _ _ | .insertProgramTimed _ _ _ | .insertProgramImmediate _ _ _
  | .insertComponentTimed _ _ _ | .insertComponentImmediate _ _ _ | .insertDuration _ _ _ _ => true
  | .spliceTimeSpecified _ _ _ _ | .spliceTimeUnspecified _ _ _ | .spliceDescriptor _ _ _ _ => true
  | .pmtRegistrationCuei _ len _ => 4 ≤ len.toNat
  | .mainRaw _ | .mainRtp _ | .mainRtpFec _ => true
  | .rtpV2 _ _ _ => true
  | .rtpMalformed _ g => rtpBad g
  | .fecCol u | .fecRow u => u.offset != 0#8 && u.na != 0#8
  | .fecMalformed port g => port != .main && fecBad g
  | .brInit buf p => p ≤ 8 * buf.length
  | .brRead _ | .brSkip _ | .brPos | .brAligned => true

end Sys2Proof
end

