-- ==== Sys2Proof/Decode.lean ====
section
/-! DEFINITION. The decoder, total on every request, and the encoder after it, both from the layouts of
30_encoding.md; the big-endian helpers they and the machine use (R14, R60); and the decoder's face towards
spec/opcode_table.json (`decodeTableWord`). -/

namespace Sys2Proof

/-! ## Bytes and big-endian words (R13, R14, R60) -/

/-- `B[i]` (R13); 0 where `B` has no byte `i`, which every use has ruled out by a length check. -/
def byteAt (B : Bytes) (i : Nat) : Byte := B.getD i 0#8

/-- `u16be(B, i)` (R14). -/
def u16be (B : Bytes) (i : Nat) : BitVec 16 := byteAt B i ++ byteAt B (i + 1)

/-- `u32be(B, i)` (R14). -/
def u32be (B : Bytes) (i : Nat) : BitVec 32 :=
  byteAt B i ++ byteAt B (i + 1) ++ byteAt B (i + 2) ++ byteAt B (i + 3)

/-- The two bytes of a 16-bit value, most significant first. -/
def be16 (w : BitVec 16) : Bytes := [w.extractLsb' 8 8, w.extractLsb' 0 8]

/-- The three bytes of a 24-bit value, most significant first. -/
def be24 (w : BitVec 24) : Bytes := [w.extractLsb' 16 8, w.extractLsb' 8 8, w.extractLsb' 0 8]

/-- The four bytes of a 32-bit value, most significant first. -/
def be32 (w : BitVec 32) : Bytes :=
  [w.extractLsb' 24 8, w.extractLsb' 16 8, w.extractLsb' 8 8, w.extractLsb' 0 8]

/-- The five bytes of a 40-bit value, most significant first. -/
def be40 (w : BitVec 40) : Bytes :=
  [w.extractLsb' 32 8, w.extractLsb' 24 8, w.extractLsb' 16 8, w.extractLsb' 8 8, w.extractLsb' 0 8]

/-! ## Headers: fields of a word and the word of the fields -/

/-- Bytes 1 to 3 of a TS packet as the fields of R91. -/
def tsFields (w : BitVec 24) : TsHeader :=
  { transportError := w.extractLsb' 23 1, pusi := w.extractLsb' 22 1, priority := w.extractLsb' 21 1
    pid := w.extractLsb' 8 13, scrambling := w.extractLsb' 6 2, cc := w.extractLsb' 0 4 }

/-- adaptation_field_control (R91, R92). -/
def tsAfc (w : BitVec 24) : BitVec 2 := w.extractLsb' 4 2

/-- The inverse of `tsFields` and `tsAfc`. -/
def tsWord (h : TsHeader) (afc : BitVec 2) : BitVec 24 :=
  h.transportError ++ h.pusi ++ h.priority ++ h.pid ++ h.scrambling ++ afc ++ h.cc

/-- Bytes 1 and 2 of a section as the fields of R96. -/
def sectionFields (w : BitVec 16) : SectionHeader :=
  { syntaxIndicator := w.extractLsb' 15 1, privateIndicator := w.extractLsb' 14 1
    reserved := w.extractLsb' 12 2, sectionLength := w.extractLsb' 0 12 }

/-- The inverse of `sectionFields`. -/
def sectionWord (h : SectionHeader) : BitVec 16 :=
  h.syntaxIndicator ++ h.privateIndicator ++ h.reserved ++ h.sectionLength

/-- RTP.PARSE (R302): a valid header with its fields (R115), and the payload. -/
def parseRtp : Bytes → Option (RtpHeader × Bytes)
  | v :: m :: s1 :: s0 :: t3 :: t2 :: t1 :: t0 :: c3 :: c2 :: c1 :: c0 :: payload =>
    if v = 0x80#8 then
      some ({ marker := m.extractLsb' 7 1, payloadType := m.extractLsb' 0 7, seq := s1 ++ s0
              timestamp := t3 ++ t2 ++ t1 ++ t0, ssrc := c3 ++ c2 ++ c1 ++ c0 }, payload)
    else none
  | _ => none

/-- The 12 bytes of a valid RTP header. -/
def rtpBytes (h : RtpHeader) : Bytes :=
  0x80#8 :: (h.marker ++ h.payloadType) :: (be16 h.seq ++ be32 h.timestamp ++ be32 h.ssrc)

/-- The FEC header and parity payload after a valid RTP header (R118), not yet checked. -/
def parseFecHeader (rtp : RtpHeader) : Bytes → Option FecUnit
  | s1 :: s0 :: l1 :: l0 :: ep :: m2 :: m1 :: m0 :: t3 :: t2 :: t1 :: t0 :: nd :: off :: na :: ext :: payload =>
    some { rtp := rtp, snbase := s1 ++ s0, lenrec := l1 ++ l0
           extension := ep.extractLsb' 7 1, ptRecovery := ep.extractLsb' 0 7
           mask := m2 ++ m1 ++ m0, tsRecovery := t3 ++ t2 ++ t1 ++ t0
           n := nd.extractLsb' 7 1, d := nd.extractLsb' 6 1, fecType := nd.extractLsb' 3 3
           index := nd.extractLsb' 0 3, offset := off, na := na, snbaseExt := ext, payload := payload }
  | _ => none

/-- A parity datagram that passes every check of R321. -/
def parseFec (g : Bytes) : Option FecUnit :=
  match parseRtp g with
  | none => none
  | some (rtp, f) =>
    match parseFecHeader rtp f with
    | none => none
    | some u => if u.offset = 0#8 ∨ u.na = 0#8 then none else some u

/-- The bytes of a parity datagram (R118). -/
def fecBytes (u : FecUnit) : Bytes :=
  rtpBytes u.rtp ++ be16 u.snbase ++ be16 u.lenrec ++ [u.extension ++ u.ptRecovery] ++ be24 u.mask ++
    be32 u.tsRecovery ++ [u.n ++ u.d ++ u.fecType ++ u.index, u.offset, u.na, u.snbaseExt] ++ u.payload

/-- The 14 bytes of R96 and R102 split into fields: encrypted_packet, splice_command_type and the rest. -/
def parseSplice (src : Option Pid) (pcr : Option PcrEntry) : Bytes → Option (BitVec 1 × Byte × SpliceUnit)
  | tid :: h1 :: h0 :: pv :: a4 :: a3 :: a2 :: a1 :: a0 :: cw :: t2 :: t1 :: t0 :: ty :: body =>
    let adj : BitVec 40 := a4 ++ a3 ++ a2 ++ a1 ++ a0
    let tl : BitVec 24 := t2 ++ t1 ++ t0
    some (adj.extractLsb' 39 1, ty,
      { srcPid := src, pcr := pcr, tableId := tid, common := sectionFields (h1 ++ h0), protocolVersion := pv
        encryptionAlgorithm := adj.extractLsb' 33 6, ptsAdjustment := adj.extractLsb' 0 33, cwIndex := cw
        tier := tl.extractLsb' 12 12, commandLength := tl.extractLsb' 0 12, body := body })
  | _ => none

/-- The CRC-stripped section buffer with the given encrypted_packet bit and splice_command_type (R101, R102). -/
def spliceBytes (encrypted : BitVec 1) (ty : Byte) (u : SpliceUnit) : Bytes :=
  [u.tableId] ++ be16 (sectionWord u.common) ++ [u.protocolVersion] ++
    be40 (encrypted ++ u.encryptionAlgorithm ++ u.ptsAdjustment) ++ [u.cwIndex] ++
    be24 (u.tier ++ u.commandLength) ++ [ty] ++ u.body

/-- The first six bytes of a splice_insert body that is not cancelled (R104), with the flags as given. -/
def insertBytes (psf df sif : BitVec 1) (u : InsertUnit) : Bytes :=
  be32 u.eventId ++ [0#1 ++ u.reserved, u.networkIndicator ++ psf ++ df ++ sif ++ u.reserved2] ++ u.rest

/-- The bytes of a cancelled splice_insert body (R104, R265) and what follows them. -/
def insertCancelBytes (eventId : BitVec 32) (reserved : BitVec 7) (rest : Bytes) : Bytes :=
  be32 eventId ++ [1#1 ++ reserved] ++ rest

/-- The fields of body bytes 0 to 5 that no INSERT row fixes. -/
def insertFields (e3 e2 e1 e0 c f : Byte) (rest : Bytes) : InsertUnit :=
  { eventId := e3 ++ e2 ++ e1 ++ e0, reserved := c.extractLsb' 0 7, networkIndicator := f.extractLsb' 7 1
    reserved2 := f.extractLsb' 0 4, rest := rest }

/-- "CUEI" (R100). -/
def cuei : Bytes := [0x43#8, 0x55#8, 0x45#8, 0x49#8]

/-! ## The decoder -/

/-- Why a request is the unit of no row. What it does is not the decoder's matter (`offTable`). -/
inductive Reject where
  /-- A CONFIG without its operand byte. -/
  | operandMissing
  /-- A host transaction with operand bytes that its command does not take. -/
  | operandUnexpected
  /-- Fewer bytes than the unit's selector fields need. -/
  | unitTooShort
  /-- Bytes that start with the sync byte but are no 188-byte packet. -/
  | notOnePacket
  /-- A section whose bytes are not the number its header declares. -/
  | sectionLengthDiffers
  /-- A routed payload that is not 1 to 184 bytes long. -/
  | payloadLength
  /-- A PMT descriptor that no row matches. -/
  | notRegistrationCuei
  /-- A main datagram in a CFG that no MAIN row matches. -/
  | noMainRow
  /-- The break duration of a body whose flags announce none. -/
  | noDuration
  /-- A parity datagram on the main port. -/
  | notParityPort
  deriving DecidableEq, Repr

/-- The decoder's answer. -/
inductive Decoded where
  | instr (i : Instr)
  | reject (r : Reject)
  deriving DecidableEq, Repr

/-- A host transaction (R120): the command code selects the row; the operand is the one the code takes. -/
def decodeHost (code : Byte) (operand : Bytes) : Decoded :=
  if code = 0x00#8 then (if operand.isEmpty then .instr .reset else .reject .operandUnexpected)
  else if code = 0x01#8 then
    match operand with
    | [] => .reject .operandMissing
    | [cfg] => .instr (.config cfg)
    | _ :: _ :: _ => .reject .operandUnexpected
  else if code = 0x02#8 then .instr (.push operand)
  else if code = 0x03#8 then (if operand.isEmpty then .instr .eof else .reject .operandUnexpected)
  else if code = 0x04#8 then .instr (.dgramMain operand)
  else if code = 0x05#8 then .instr (.dgramCol operand)
  else if code = 0x06#8 then .instr (.dgramRow operand)
  else if code = 0x07#8 then .instr (.literalSection operand)
  else if code = 0x08#8 then (if operand.isEmpty then .instr .rxerr else .reject .operandUnexpected)
  else .instr (.hostIllegal code operand)

/-- The operand byte of CONFIG (R362). -/
def decodeCfg (cfg : Byte) : Instr :=
  if cfg = 0x01#8 then .configFile
  else if cfg = 0x02#8 then .configNetRaw
  else if cfg = 0x03#8 then .configSection
  else if cfg = 0x0A#8 then .configNetRtp
  else if cfg = 0x0E#8 then .configNetRtpFec
  else .configIllegal cfg

/-- A TS row: the first byte, then adaptation_field_control (R91, R92). -/
def decodeTs : Bytes → Decoded
  | [] => .reject .unitTooShort
  | s :: rest =>
    if s = Config.syncByte then
      match rest with
      | b1 :: b2 :: b3 :: body =>
        if body.length = 184 then
          let w : BitVec 24 := b1 ++ b2 ++ b3
          if tsAfc w = 0#2 then .instr (.tsAfcReserved (tsFields w) body)
          else if tsAfc w = 1#2 then .instr (.tsPayload (tsFields w) body)
          else if tsAfc w = 2#2 then .instr (.tsAdapt (tsFields w) body)
          else .instr (.tsAdaptPayload (tsFields w) body)
        else .reject .notOnePacket
      | _ => .reject .notOnePacket
    else .instr (.tsNosync (s :: rest))

/-- A FILTER row: the form of the slot of the packet's PID (R162). -/
def decodeRoute (form : Form) (u : RouteUnit) : Decoded :=
  if u.wf then
    match form with
    | .empty => .instr (.routeEmpty u)
    | .null => .instr (.routeNull u)
    | .pat => .instr (.routePat u)
    | .pmt pn => .instr (.routePmt pn u)
    | .scte35 e k => .instr (.routeScte35 e k u)
    | .pcrWatch k => .instr (.routePcrwatch k u)
  else .reject .payloadLength

/-- A SECTION.HDR row: the table_id (R96). -/
def decodeSection (pid : Option Pid) : Bytes → Decoded
  | [] => .reject .unitTooShort
  | t :: rest =>
    if t = 0xFF#8 then .instr (.secStuffing pid rest)
    else
      match rest with
      | h1 :: h0 :: body =>
        let h := sectionFields (h1 ++ h0)
        if h.bodyOk body then
          if t = 0x00#8 then .instr (.secPat pid h body)
          else if t = 0x02#8 then .instr (.secPmt pid h body)
          else if t = 0xFC#8 then .instr (.secSplice pid h body)
          else .instr (.secOther pid t h body)
        else .reject .sectionLengthDiffers
      | _ => .reject .unitTooShort

/-- A SPLICE row: encrypted_packet, then splice_command_type (R103, R259). -/
def decodeSplice (src : Option Pid) (pcr : Option PcrEntry) (bytes : Bytes) : Decoded :=
  match parseSplice src pcr bytes with
  | none => .reject .unitTooShort
  | some (enc, ty, u) =>
    if enc = 1#1 then .instr (.spliceEncrypted ty u)
    else if ty = 0x00#8 then .instr (.spliceNull u)
    else if ty = 0x04#8 then .instr (.spliceSchedule u)
    else if ty = 0x05#8 then .instr (.spliceInsert u)
    else if ty = 0x06#8 then .instr (.timeSignal u)
    else if ty = 0x07#8 then .instr (.bandwidthReservation u)
    else if ty = 0xFF#8 then .instr (.privateCommand u)
    else .instr (.spliceReserved ty u)

/-- An INSERT row: cancel_indicator, program_splice_flag, splice_immediate_flag (R104, R125 item 6). The rows are
in priority order, so INSERT.DURATION, which overlaps the four forms before it, is reached by `decodeDuration`. -/
def decodeInsert (src : Option Pid) : Bytes → Decoded
  | e3 :: e2 :: e1 :: e0 :: c :: rest =>
    if c.extractLsb' 7 1 = 1#1 then
      .instr (.insertCancel src (e3 ++ e2 ++ e1 ++ e0) (c.extractLsb' 0 7) rest)
    else
      match rest with
      | f :: rest' =>
        let u := insertFields e3 e2 e1 e0 c f rest'
        let df := f.extractLsb' 5 1
        if f.extractLsb' 6 1 = 1#1 then
          if f.extractLsb' 4 1 = 0#1 then .instr (.insertProgramTimed src df u)
          else .instr (.insertProgramImmediate src df u)
        else
          if f.extractLsb' 4 1 = 0#1 then .instr (.insertComponentTimed src df u)
          else .instr (.insertComponentImmediate src df u)
      | [] => .reject .unitTooShort
  | _ => .reject .unitTooShort

/-- The INSERT.DURATION row: cancel_indicator 0 and duration_flag 1 (R104, R268). -/
def decodeDuration (src : Option Pid) : Bytes → Decoded
  | e3 :: e2 :: e1 :: e0 :: c :: f :: rest =>
    if c.extractLsb' 7 1 = 0#1 ∧ f.extractLsb' 5 1 = 1#1 then
      .instr (.insertDuration src (f.extractLsb' 6 1) (f.extractLsb' 4 1) (insertFields e3 e2 e1 e0 c f rest))
    else .reject .noDuration
  | _ => .reject .unitTooShort

/-- A SPLICE_TIME row: time_specified_flag (R105). -/
def decodeSpliceTime (src : Option Pid) : Bytes → Decoded
  | [] => .reject .unitTooShort
  | b :: rest =>
    if b.extractLsb' 7 1 = 1#1 then
      .instr (.spliceTimeSpecified src (b.extractLsb' 1 6) (b.extractLsb' 0 1) rest)
    else .instr (.spliceTimeUnspecified src (b.extractLsb' 0 7) rest)

/-- The DESCRIPTOR row (R109). -/
def decodeDescriptor (src : Option Pid) : Bytes → Decoded
  | tag :: len :: rest => .instr (.spliceDescriptor src tag len rest)
  | _ => .reject .unitTooShort

/-- The PMT.DESCRIPTOR row (R100, R230). -/
def decodePmtDescriptor (pid : Pid) : Bytes → Decoded
  | tag :: len :: c :: u :: e :: i :: rest =>
    if tag = 0x05#8 ∧ 4 ≤ len.toNat ∧ [c, u, e, i] = cuei then .instr (.pmtRegistrationCuei pid len rest)
    else .reject .notRegistrationCuei
  | _ => .reject .notRegistrationCuei

/-- A MAIN row: the low four bits of CFG (R125 item 7). -/
def decodeMain (cfg : Byte) (g : Bytes) : Decoded :=
  if cfg.extractLsb' 0 4 = 0x2#4 then .instr (.mainRaw g)
  else if cfg.extractLsb' 0 4 = 0xA#4 then .instr (.mainRtp g)
  else if cfg.extractLsb' 0 4 = 0xE#4 then .instr (.mainRtpFec g)
  else .reject .noMainRow

/-- An RTP row (R302). -/
def decodeRtp (port : Port) (g : Bytes) : Instr :=
  match parseRtp g with
  | some (h, payload) => .rtpV2 port h payload
  | none => .rtpMalformed port g

/-- A FEC row: the port, then the checks of R321. -/
def decodeFec (port : Port) (g : Bytes) : Decoded :=
  match port with
  | .main => .reject .notParityPort
  | .col =>
    match parseFec g with
    | some u => .instr (.fecCol u)
    | none => .instr (.fecMalformed .col g)
  | .row =>
    match parseFec g with
    | some u => .instr (.fecRow u)
    | none => .instr (.fecMalformed .row g)

/-- The decoder: total on every request. -/
def decode (k : Keys) : Request → Decoded
  | .host code operand => decodeHost code operand
  | .cfg operand => .instr (decodeCfg operand)
  | .ts bytes => decodeTs bytes
  | .route u => decodeRoute k.form u
  | .sec pid bytes => decodeSection pid bytes
  | .splice src pcr bytes => decodeSplice src pcr bytes
  | .insert src bytes => decodeInsert src bytes
  | .duration src bytes => decodeDuration src bytes
  | .spliceTime src bytes => decodeSpliceTime src bytes
  | .descriptor src bytes => decodeDescriptor src bytes
  | .pmtDescriptor pid bytes => decodePmtDescriptor pid bytes
  | .mainDgram g => decodeMain k.cfg g
  | .rtp port g => .instr (decodeRtp port g)
  | .fec port g => decodeFec port g
  | .brInit buf p => .instr (.brInit buf p.val)
  | .brRead n => .instr (.brRead n)
  | .brSkip n => .instr (.brSkip n)
  | .brPos => .instr .brPos
  | .brAligned => .instr .brAligned

/-! ## The encoder -/

/-- The 188 bytes of a packet (R91). -/
def packetBytes (h : TsHeader) (afc : BitVec 2) (body : Bytes) : Bytes :=
  Config.syncByte :: (be24 (tsWord h afc) ++ body)

/-- The bytes of a section (R96). -/
def sectionBytes (tableId : Byte) (h : SectionHeader) (body : Bytes) : Bytes :=
  tableId :: (be16 (sectionWord h) ++ body)

/-- The unit an instruction stands for, written from the layouts of 30_encoding.md. -/
def encode : Instr → Request
  | .reset => .host 0x00#8 []
  | .config cfg => .host 0x01#8 [cfg]
  | .push bytes => .host 0x02#8 bytes
  | .eof => .host 0x03#8 []
  | .dgramMain g => .host 0x04#8 g
  | .dgramCol g => .host 0x05#8 g
  | .dgramRow g => .host 0x06#8 g
  | .literalSection buf => .host 0x07#8 buf
  | .rxerr => .host 0x08#8 []
  | .hostIllegal code operand => .host code operand
  | .configFile => .cfg 0x01#8
  | .configNetRaw => .cfg 0x02#8
  | .configSection => .cfg 0x03#8
  | .configNetRtp => .cfg 0x0A#8
  | .configNetRtpFec => .cfg 0x0E#8
  | .configIllegal cfg => .cfg cfg
  | .tsPayload h body => .ts (packetBytes h 1#2 body)
  | .tsAdapt h body => .ts (packetBytes h 2#2 body)
  | .tsAdaptPayload h body => .ts (packetBytes h 3#2 body)
  | .tsAfcReserved h body => .ts (packetBytes h 0#2 body)
  | .tsNosync bytes => .ts bytes
  | .routeEmpty u | .routeNull u | .routePat u | .routePmt _ u | .routeScte35 _ _ u | .routePcrwatch _ u => .route u
  | .secPat pid h body => .sec pid (sectionBytes 0x00#8 h body)
  | .secPmt pid h body => .sec pid (sectionBytes 0x02#8 h body)
  | .secSplice pid h body => .sec pid (sectionBytes 0xFC#8 h body)
  | .secStuffing pid rest => .sec pid (0xFF#8 :: rest)
  | .secOther pid t h body => .sec pid (sectionBytes t h body)
  | .spliceEncrypted ty u => .splice u.srcPid u.pcr (spliceBytes 1#1 ty u)
  | .spliceNull u => .splice u.srcPid u.pcr (spliceBytes 0#1 0x00#8 u)
  | .spliceSchedule u => .splice u.srcPid u.pcr (spliceBytes 0#1 0x04#8 u)
  | .spliceInsert u => .splice u.srcPid u.pcr (spliceBytes 0#1 0x05#8 u)
  | .timeSignal u => .splice u.srcPid u.pcr (spliceBytes 0#1 0x06#8 u)
  | .bandwidthReservation u => .splice u.srcPid u.pcr (spliceBytes 0#1 0x07#8 u)
  | .privateCommand u => .splice u.srcPid u.pcr (spliceBytes 0#1 0xFF#8 u)
  | .spliceReserved tag u => .splice u.srcPid u.pcr (spliceBytes 0#1 tag u)
  | .insertCancel src eventId reserved rest => .insert src (insertCancelBytes eventId reserved rest)
  | .insertProgramTimed src df u => .insert src (insertBytes 1#1 df 0#1 u)
  | .insertProgramImmediate src df u => .insert src (insertBytes 1#1 df 1#1 u)
  | .insertComponentTimed src df u => .insert src (insertBytes 0#1 df 0#1 u)
  | .insertComponentImmediate src df u => .insert src (insertBytes 0#1 df 1#1 u)
  | .insertDuration src psf sif u => .duration src (insertBytes psf 1#1 sif u)
  | .spliceTimeSpecified src reserved msb rest => .spliceTime src ((1#1 ++ reserved ++ msb) :: rest)
  | .spliceTimeUnspecified src reserved rest => .spliceTime src ((0#1 ++ reserved) :: rest)
  | .spliceDescriptor src tag len rest => .descriptor src (tag :: len :: rest)
  | .pmtRegistrationCuei pid len rest => .pmtDescriptor pid (0x05#8 :: len :: (cuei ++ rest))
  | .mainRaw g | .mainRtp g | .mainRtpFec g => .mainDgram g
  | .rtpV2 port h payload => .rtp port (rtpBytes h ++ payload)
  | .rtpMalformed port g => .rtp port g
  | .fecCol u => .fec .col (fecBytes u)
  | .fecRow u => .fec .row (fecBytes u)
  | .fecMalformed port g => .fec port g
  | .brInit buf p => .brInit buf (Fin.ofNat _ p)
  | .brRead n => .brRead n
  | .brSkip n => .brSkip n
  | .brPos => .brPos
  | .brAligned => .brAligned

/-- The keys under which the decoder reads a unit as this instruction (R125 items 3 and 7): the FILTER and MAIN
rows are selected by state. -/
def selects (k : Keys) : Instr → Bool
  | .routeEmpty _ => k.form == .empty
  | .routeNull _ => k.form == .null
  | .routePat _ => k.form == .pat
  | .routePmt pn _ => k.form == .pmt pn
  | .routeScte35 e key _ => k.form == .scte35 e key
  | .routePcrwatch key _ => k.form == .pcrWatch key
  | .mainRaw _ => k.cfg.extractLsb' 0 4 == 0x2#4
  | .mainRtp _ => k.cfg.extractLsb' 0 4 == 0xA#4
  | .mainRtpFec _ => k.cfg.extractLsb' 0 4 == 0xE#4
  | .reset | .config _ | .push _ | .eof | .dgramMain _ | .dgramCol _ | .dgramRow _ | .literalSection _ | .rxerr
  | .hostIllegal _ _ | .configFile | .configNetRaw | .configSection | .configNetRtp | .configNetRtpFec
  | .configIllegal _ | .tsPayload _ _ | .tsAdapt _ _ | .tsAdaptPayload _ _ | .tsAfcReserved _ _ | .tsNosync _
  | .secPat _ _ _ | .secPmt _ _ _ | .secSplice _ _ _ | .secStuffing _ _ | .secOther _ _ _ _
  | .spliceEncrypted _ _ | .spliceNull _ | .spliceSchedule _ | .spliceInsert _ | .timeSignal _
  | .bandwidthReservation _ | .privateCommand _ | .spliceReserved _ _ | .insertCancel _ _ _ _
  | .insertProgramTimed _ _ _ | .insertProgramImmediate _ _ _ | .insertComponentTimed _ _ _
  | .insertComponentImmediate _ _ _ | .insertDuration _ _ _ _ | .spliceTimeSpecified _ _ _ _
  | .spliceTimeUnspecified _ _ _ | .spliceDescriptor _ _ _ _ | .pmtRegistrationCuei _ _ _ | .rtpV2 _ _ _
  | .rtpMalformed _ _ | .fecCol _ | .fecRow _ | .fecMalformed _ _ | .brInit _ _ | .brRead _ | .brSkip _
  | .brPos | .brAligned => true

/-! ## The opcode table's words

The rows of spec/opcode_table.json are keyed per format (R125), and several formats share a width, so a bare
word does not name its format. The width decides here, the outermost unit of that width winning (log entry 7). -/

/-- How many zero bytes follow the 14 header bytes of a SPLICE table word: the bits above the key are 0. -/
def spliceFill : Nat := 32

/-- The unit whose table bits are `w`, every other bit 0: 8 bits a host command code, 16 the SPLICE key (bytes 4 and
13 of the section), 24 a section header, 32 a TS header, 48 a PMT descriptor. -/
def tableRequest (nbits w : Nat) : Option Request :=
  match nbits with
  | 8 =>
    let code := BitVec.ofNat 8 w
    some (.host code (if code = 0x01#8 then [0#8] else []))
  | 16 =>
    let key := BitVec.ofNat 16 w
    some (.splice none none (List.replicate 4 0#8 ++ [key.extractLsb' 8 8] ++ List.replicate 8 0#8 ++
      [key.extractLsb' 0 8] ++ List.replicate spliceFill 0#8))
  | 24 =>
    let key := BitVec.ofNat 24 w
    let len := (key.extractLsb' 0 12).toNat
    some (.sec none (be24 key ++ List.replicate (if len ≤ Config.maxSectionLength then len else 0) 0#8))
  | 32 =>
    let key := BitVec.ofNat 32 w
    some (.ts (be32 key ++ List.replicate 184 0#8))
  | 48 =>
    let key := BitVec.ofNat 48 w
    some (.pmtDescriptor 0#13 (be24 (key.extractLsb' 24 24) ++ be24 (key.extractLsb' 0 24)))
  | _ => none

/-- The instruction the decoder reads from the opcode table's word `w` of `nbits` bits; none where it refuses. -/
def decodeTableWord (nbits w : Nat) : Option Instr :=
  match tableRequest nbits w with
  | none => none
  | some r =>
    match decode { form := .empty, cfg := 0#8 } r with
    | .instr i => some i
    | .reject _ => none

end Sys2Proof
end

