-- ==== Sys2Proof/Machine/Operands.lean ====
section
/-! DEFINITION. The operand forms: the bit reader's operations (40_bit_reader.md), the CRC of R97, and the parsers
that turn the bytes of a packet, a table section or a parity record into fields. All are pure: reads have no side
effect on the buffer read (R68). -/

namespace Sys2Proof.Machine

/-! ## The bit reader -/

/-- The bit at position `p` of `buf`: bit `7 - (p mod 8)` of byte `p div 8` (R14). -/
def bitAt (buf : Bytes) (p : Nat) : Nat := (byteAt buf (p / 8)).toNat / 2 ^ (7 - p % 8) % 2

/-- The unsigned integer made of the `n` bits from position `p`, the first the most significant (R132). -/
def bitsAt (buf : Bytes) (p : Nat) : Nat → Nat
  | 0 => 0
  | n + 1 => 2 * bitsAt buf p n + bitAt buf (p + n)

/-- `BR.INIT(buf, p)` (R131). -/
def brInit (buf : Bytes) (p : Nat) : BitReader := { buf := buf, pos := p }

/-- `BR.READ(n)` (R132): the value and the moved reader, or `none` for underrun. -/
def brRead (n : Nat) (b : BitReader) : Option (Nat × BitReader) :=
  if 8 * b.buf.length < b.pos + n then none
  else some (bitsAt b.buf b.pos n, { b with pos := b.pos + n })

/-- `BR.SKIP(n)` (R133): the moved reader, or `none` for underrun. -/
def brSkip (n : Nat) (b : BitReader) : Option BitReader :=
  if 8 * b.buf.length < b.pos + n then none else some { b with pos := b.pos + n }

/-- `BR.ALIGNED()` (R134). -/
def brAligned (b : BitReader) : Bool := b.pos % 8 == 0

/-- A parse with the bit reader: `none` is underrun. -/
abbrev Parse (α : Type) := BitReader → Option (α × BitReader)

/-- A parse that reads nothing. -/
def pureP {α : Type} (a : α) : Parse α := fun b => some (a, b)

/-- One parse after another; an underrun of the first ends both (R276). -/
def bindP {α β : Type} (p : Parse α) (f : α → Parse β) : Parse β := fun b =>
  match p b with
  | none => none
  | some (a, b') => f a b'

/-- Read one field of `w` bits. -/
def readP (w : Nat) : Parse (BitVec w) := fun b =>
  match brRead w b with
  | none => none
  | some (v, b') => some (BitVec.ofNat w v, b')

/-- Skip `n` bits, unexamined (R133, R279). -/
def skipP (n : Nat) : Parse Unit := fun b =>
  match brSkip n b with
  | none => none
  | some b' => some ((), b')

/-! ## CRC_32 (R97) -/

/-- The polynomial of CRC-32/MPEG-2. -/
def crcPoly : BitVec 32 := 0x04C11DB7#32

/-- One of the eight steps per byte. -/
def crcStep (c : BitVec 32) : BitVec 32 :=
  if c.getLsbD 31 then (c <<< (1 : Nat)) ^^^ crcPoly else c <<< (1 : Nat)

/-- Eight steps. -/
def crcStep8 (c : BitVec 32) : BitVec 32 :=
  crcStep (crcStep (crcStep (crcStep (crcStep (crcStep (crcStep (crcStep c)))))))

/-- One byte: `crc ^ (b · 2^24)`, then eight steps. -/
def crcByte (c : BitVec 32) (b : Byte) : BitVec 32 := crcStep8 (c ^^^ (b ++ 0#24))

/-- The CRC of a byte sequence. -/
def crc (bs : Bytes) : BitVec 32 := bs.foldl crcByte 0xFFFFFFFF#32

/-- R97, R201: a section of at least 4 bytes whose last four are the CRC of the rest. -/
def crcGood (sec : Bytes) : Bool :=
  4 ≤ sec.length && crc (sec.take (sec.length - 4)) == u32be sec (sec.length - 4)

/-! ## Sections -/

/-- section_length of a section of at least 3 bytes (R96). -/
def sectionLength (sec : Bytes) : BitVec 12 := (byteAt sec 1 ++ byteAt sec 2).extractLsb' 0 12

/-! ## Adaptation field (R92, R93, R159) -/

/-- The PCR in `P[6..12)` (R93), given the bytes from `P[6]` on. -/
def pcrOf (p : Bytes) : Pcr :=
  let w : BitVec 48 :=
    byteAt p 0 ++ byteAt p 1 ++ byteAt p 2 ++ byteAt p 3 ++ byteAt p 4 ++ byteAt p 5
  { base := w.extractLsb' 15 33, ext := w.extractLsb' 0 9 }

/-- The adaptation field at the start of `body` (byte 4 of the packet on): its length and PCR, or `none` when the
packet is malformed (R160): longer than `most`, or PCR_flag set in fewer than 7 bytes. -/
def adaptation (most : Nat) (body : Bytes) : Option (Nat × Option Pcr) :=
  let n := (byteAt body 0).toNat
  if most < n then none
  else if 1 ≤ n ∧ (byteAt body 1).getLsbD 4 then
    if n < 7 then none else some (n, some (pcrOf (body.drop 2)))
  else some (n, none)

/-! ## PAT and PMT (R98 to R100, R221, R225) -/

/-- The 4-byte entries of a PAT: program_number and PID (R98). -/
def patEntries : Bytes → List (BitVec 16 × Pid)
  | a :: b :: c :: d :: rest => (a ++ b, (c ++ d).extractLsb' 0 13) :: patEntries rest
  | _ => []

/-- R222: a PAT section whose entries do not fit. -/
def patBad (sec : Bytes) : Bool := sec.length < 12 || (sec.length - 12) % 4 != 0

/-- The entries of a well-formed PAT section that name a PMT PID: program_number 0 is skipped (R224 b). -/
def patPrograms (sec : Bytes) : List (BitVec 16 × Pid) :=
  (patEntries ((sec.drop 8).take (sec.length - 12))).filter fun e => e.1 != 0#16

/-- A descriptor loop of an elementary stream: whether it holds a CUEI registration (R230), or `none` where a
descriptor runs past the loop (R225). The fuel is the loop's length. -/
def scanDescriptors : Nat → Bytes → Bool → Option Bool
  | 0, _, found => some found
  | _ + 1, [], found => some found
  | _ + 1, [_], _ => none
  | fuel + 1, tag :: len :: rest, found =>
    if rest.length < len.toNat then none
    else
      scanDescriptors fuel (rest.drop len.toNat)
        (found || (tag == 0x05#8 && 4 ≤ len.toNat && rest.take 4 == cuei))

/-- The elementary streams of a PMT, each with whether it is CUEI-registered, or `none` where an entry runs past
the section (R225). The fuel is the loop's length. -/
def scanStreams : Nat → Bytes → Option (List (Pid × Bool))
  | 0, _ => some []
  | _ + 1, [] => some []
  | fuel + 1, _ :: p1 :: p0 :: l1 :: l0 :: rest =>
    let eil := ((l1 ++ l0).extractLsb' 0 12).toNat
    if rest.length < eil then none
    else
      match scanDescriptors eil (rest.take eil) false, scanStreams fuel (rest.drop eil) with
      | some c, some es => some (((p1 ++ p0).extractLsb' 0 13, c) :: es)
      | _, _ => none
  | _ + 1, _ => none

/-- What a PMT section for a filter of one program comes to (R225). -/
inductive PmtParse where
  /-- X10: the section's inner lengths do not fit (R226). -/
  | bad
  /-- X22: the section is for another program (R227). -/
  | otherProgram (pn : BitVec 16)
  /-- The elementary streams, in section order. -/
  | streams (es : List (Pid × Bool))
  deriving DecidableEq, Repr

/-- Pass 1 of R225: the elementary streams stand between byte 12 + program_info_length and the CRC. -/
def parsePmt (pn : BitVec 16) (sec : Bytes) : PmtParse :=
  if sec.length < 16 then .bad
  else if u16be sec 3 ≠ pn then .otherProgram (u16be sec 3)
  else
    let pos := 12 + ((byteAt sec 10 ++ byteAt sec 11).extractLsb' 0 12).toNat
    if sec.length - 4 < pos then .bad
    else
      match scanStreams (sec.length - 4 - pos) ((sec.drop pos).take (sec.length - 4 - pos)) with
      | none => .bad
      | some es => .streams es

end Sys2Proof.Machine
end

