-- ==== Sys2Proof/Machine/Ops.lean ====
section
/-! DEFINITION. The named operations over the state: the sparse tables behind `FT`, `PCRREG` and `F_STORE`, taking an
exception (R17, R394, R396), and the gates a command or a unit passes before it acts. The device returns from no
exception: nothing is saved and nothing resumes (R391, R395). -/

namespace Sys2Proof.Machine

/-! ## Sparse tables: entries by strictly rising key, none for a key that holds the default (R28, R34, R37) -/

/-- The entry at a key. -/
def tableGet {α : Type} (k : Nat) : List (Nat × α) → Option α
  | [] => none
  | (j, v) :: rest => if j = k then some v else tableGet k rest

/-- Write the entry at a key. -/
def tablePut {α : Type} (k : Nat) (v : α) : List (Nat × α) → List (Nat × α)
  | [] => [(k, v)]
  | (j, w) :: rest =>
    if k < j then (k, v) :: (j, w) :: rest
    else if k = j then (k, v) :: rest
    else (j, w) :: tablePut k v rest

/-- Remove the entry at a key. -/
def tableErase {α : Type} (k : Nat) : List (Nat × α) → List (Nat × α)
  | [] => []
  | (j, w) :: rest => if j = k then tableErase k rest else (j, w) :: tableErase k rest

/-- `FT[pid]` (R16, R28): an unlisted slot is Empty. -/
def slotAt (s : State) (pid : Pid) : Slot := (tableGet pid.toNat s.ft).getD .empty

/-- `FT[pid] <- v`; storing Empty unlists the slot. -/
def setSlot (pid : Pid) (v : Slot) (s : State) : State :=
  { s with ft := if v = .empty then tableErase pid.toNat s.ft else tablePut pid.toNat v s.ft }

/-- `PCRREG[k]` (R34): an unlisted entry is Absent. -/
def pcrAt (s : State) (k : Pid) : PcrEntry := (tableGet k.toNat s.pcrreg).getD .absent

/-- `PCRREG[k] <- e`; storing Absent unlists the entry. -/
def setPcr (k : Pid) (e : PcrEntry) (s : State) : State :=
  { s with pcrreg := if e = .absent then tableErase k.toNat s.pcrreg else tablePut k.toNat e s.pcrreg }

/-! ## Filter slots -/

/-- The form of a slot (R30). -/
def Slot.form : Slot → Form
  | .empty => .empty
  | .pat _ => .pat
  | .pmt pn _ => .pmt pn
  | .null => .null
  | .scte35 e k _ => .scte35 e k
  | .pcrWatch k => .pcrWatch k

/-- The reassembler state of a slot that has one (R29). -/
def Slot.reasm : Slot → Option Reasm
  | .pat r | .pmt _ r | .scte35 _ _ r => some r
  | .empty | .null | .pcrWatch _ => none

/-- A slot with its reassembler state replaced, where it has one. -/
def Slot.withReasm (r : Reasm) : Slot → Slot
  | .pat _ => .pat r
  | .pmt pn _ => .pmt pn r
  | .scte35 e k _ => .scte35 e k r
  | .empty => .empty
  | .null => .null
  | .pcrWatch k => .pcrWatch k

/-- A fresh filter of a form (R31). -/
def freshSlot : Form → Slot
  | .empty => .empty
  | .pat => .pat .fresh
  | .pmt pn => .pmt pn .fresh
  | .null => .null
  | .scte35 e k => .scte35 e k .fresh
  | .pcrWatch k => .pcrWatch k

/-- The form of `FT[pid]`. -/
def formAt (s : State) (pid : Pid) : Form := (slotAt s pid).form

/-- The reassembler state of `FT[pid]`, where it is a section filter. -/
def reasmAt (s : State) (pid : Pid) : Option Reasm := (slotAt s pid).reasm

/-- Write the reassembler state of `FT[pid]`. -/
def setReasm (pid : Pid) (r : Reasm) (s : State) : State := setSlot pid ((slotAt s pid).withReasm r) s

/-- The partial section of `FT[pid]` (R33). -/
def accAt (s : State) (pid : Pid) : Option Bytes := (reasmAt s pid).bind Reasm.acc

/-- Write the partial section of `FT[pid]`; its continuity tracker stays. -/
def setAcc (pid : Pid) (acc : Option Bytes) (s : State) : State :=
  match reasmAt s pid with
  | none => s
  | some r => setReasm pid { r with acc := acc } s

/-! ## Events and exceptions -/

/-- `emit E` (R17): append to the output event stream. -/
def emit (e : Event) (s : State) : State := { s with events := s.events ++ [e] }

/-- Append several events in order. -/
def emitAll (es : List Event) (s : State) : State := { s with events := s.events ++ es }

/-- `FATAL_CODE` of the two fatal exceptions (R390, R392). -/
def Exn.fatalCode : Exn → Option (BitVec 8)
  | .x02 => some 2#8
  | .x19 => some 19#8
  | .x01 _ | .x03 _ | .x04 _ | .x05 _ _ | .x06 _ | .x07 _ | .x08 _ | .x09 _ _ | .x10 _ | .x11 _ | .x12 _ _
  | .x13 _ | .x14 _ | .x15 _ | .x16 _ | .x17 _ _ | .x18 _ | .x20 _ | .x21 _ _ | .x22 _ _ | .x23 _ | .x24 _ => none

/-- Taking an exception: `raise Xnn(info)` (R17). Every entry appends the exception event and saves nothing (R391); a
fatal one also latches FATAL and empties `PKTBUF` (R396). What a recoverable one drops, the raising rule says (R394). -/
def raise (x : Exn) (s : State) : State :=
  match x.fatalCode with
  | none => emit (.exn x) s
  | some code => { s with events := s.events ++ [.exn x], fatalCode := code, mode := .fatal, pktbuf := [] }

/-! ## Gates -/

/-- The answer of an instruction: every instruction of this device ends in a next state. -/
abbrev Answer := Host.Outcome State Fault Refusal

/-- A host command (R365, R369, R370): ignored in FATAL, refused with X20 and its code where it is not legal. -/
def command (code : Byte) (legal : Bool) (act : State → State) (s : State) : Answer :=
  .next (if s.mode = .fatal then s else if legal then act s else raise (.x20 code) s)

/-- A unit-level operation: nothing is processed in FATAL until RESET (R156, R396). -/
def inUnit (act : State → State) (s : State) : Answer :=
  .next (if s.mode = .fatal then s else act s)

end Sys2Proof.Machine
end

