-- ==== Sys2Proof/Machine/Splice.lean ====
section
/-! DEFINITION. Unit U3, the splice_info_section decoder (44_splice_decoder.md). The decoder reads its buffer through
the bit reader, changes no device state and emits events (R250), so it is a function from the buffer to the events. -/

namespace Sys2Proof.Machine

/-! ## Parts of a command -/

/-- `SPLICE_TIME()` (R261). -/
def spliceTimeP : Parse SpliceTime :=
  bindP (readP 1) fun f =>
    if f = 1#1 then bindP (skipP 6) fun _ => bindP (readP 33) fun pts => pureP (.timed (some pts))
    else bindP (skipP 7) fun _ => pureP (.timed none)

/-- A splice_time under splice_immediate_flag (R266, R267): no bits are read when it is set. -/
def timeUnlessImmediateP (sif : BitVec 1) : Parse SpliceTime :=
  if sif = 1#1 then pureP .immediate else spliceTimeP

/-- The components of R267, `count` of them. -/
def componentListP (sif : BitVec 1) : Nat → Parse (List SpliceComponent)
  | 0 => pureP []
  | count + 1 =>
    bindP (readP 8) fun tag =>
      bindP (timeUnlessImmediateP sif) fun t =>
        bindP (componentListP sif count) fun rest => pureP ({ tag := tag, time := t } :: rest)

/-- `PROGRAM(sif)` (R266) and `COMPONENTS(sif)` (R267). -/
def spliceModeP (psf sif : BitVec 1) : Parse SpliceMode :=
  if psf = 1#1 then bindP (timeUnlessImmediateP sif) fun t => pureP (.program t)
  else
    bindP (readP 8) fun count =>
      bindP (componentListP sif count.toNat) fun cs => pureP (.components cs)

/-- `DURATION()` (R268, R106). -/
def durationP : Parse SpliceDuration :=
  bindP (readP 1) fun ar =>
    bindP (skipP 6) fun _ =>
      bindP (readP 33) fun d =>
        pureP { returnMode := if ar = 1#1 then .automatic else .manual, duration := d }

/-- The break duration under duration_flag (R264). -/
def optDurationP (df : BitVec 1) : Parse (Option SpliceDuration) :=
  if df = 1#1 then bindP durationP fun d => pureP (some d) else pureP none

/-- The part of a splice_insert body that a cancelled one does not have (R264, R269). -/
def insertDetailP : Parse InsertDetail :=
  bindP (readP 1) fun ni =>
    bindP (readP 1) fun psf =>
      bindP (readP 1) fun df =>
        bindP (readP 1) fun sif =>
          bindP (skipP 4) fun _ =>
            bindP (spliceModeP psf sif) fun mode =>
              bindP (optDurationP df) fun dur =>
                bindP (readP 16) fun upid =>
                  bindP (readP 8) fun an =>
                    bindP (readP 8) fun ae =>
                      pureP { networkIndicator := if ni = 1#1 then .outward else .inward, spliceMode := mode
                              duration := dur, uniqueProgramId := upid, availNum := an, availsExpected := ae }

/-- A splice_insert body (R264, R265). -/
def insertP : Parse SpliceCommand :=
  bindP (readP 32) fun eventId =>
    bindP (readP 1) fun cancel =>
      bindP (skipP 7) fun _ =>
        if cancel = 1#1 then pureP (.spliceInsert eventId none)
        else bindP insertDetailP fun d => pureP (.spliceInsert eventId (some d))

/-- The break duration of a splice_insert body, read past its time part (R264, R268). -/
def insertDurationP : Parse SpliceDuration :=
  bindP (skipP 40) fun _ =>
    bindP (skipP 1) fun _ =>
      bindP (readP 1) fun psf =>
        bindP (skipP 1) fun _ =>
          bindP (readP 1) fun sif =>
            bindP (skipP 4) fun _ => bindP (spliceModeP psf sif) fun _ => durationP

/-- A time_signal body (R271). -/
def timeSignalP : Parse SpliceCommand := bindP spliceTimeP fun t => pureP (.timeSignal t)

/-! ## Header (R252) -/

/-- The eight header reads of R252, after table_id. -/
def headerP (tableId : Byte) : Parse SpliceHeader :=
  bindP (readP 8) fun pv =>
    bindP (readP 1) fun enc =>
      bindP (readP 6) fun alg =>
        bindP (readP 33) fun adj =>
          bindP (readP 8) fun cw =>
            bindP (readP 12) fun tier =>
              bindP (readP 12) fun len =>
                bindP (readP 8) fun ty =>
                  pureP { tableId := tableId, protocolVersion := pv, encryptedPacket := enc
                          encryptionAlgorithm := alg, ptsAdjustment := adj, cwIndex := cw, tier := tier
                          commandLength := len, commandType := ty }

/-! ## Annotation (R283, R284) -/

/-- `elapsed` (R283): the signed shorter circular distance from the PCR base to the pts_time. -/
def elapsed (pts base : BitVec 33) : Int :=
  let d := (pts - base).toNat
  if 4294967296 ≤ d then (d : Int) - 8589934592 else d

/-- The pts_time an annotation is computed from (R284): program mode, timed and specified. -/
def annotatedPts : SpliceCommand → Option (BitVec 33)
  | .timeSignal (.timed pts) => pts
  | .spliceInsert _ (some d) =>
    match d.spliceMode with
    | .program (.timed pts) => pts
    | .program .immediate => none
    | .components _ => none
  | .timeSignal .immediate | .spliceInsert _ none | .spliceNull | .spliceSchedule _ | .bandwidthReservation
  | .privateCommand _ | .reserved _ _ | .encrypted _ => none

/-- The annotation of a command under a registry entry (R284); `none` for `pcr` is the literal path. -/
def annotation (cmd : SpliceCommand) (pcr : Option PcrEntry) : Option Int :=
  match annotatedPts cmd, pcr with
  | some pts, some (.seen p) => some (elapsed pts p.base)
  | some _, some .absent | some _, some .noPcr | some _, none | none, _ => none

/-! ## Descriptor loop (R280) -/

/-- The entries of a loop, given its bytes. The fuel is their number. -/
def descriptorEntries (src : Option Pid) : Nat → Bytes → List Event
  | 0, _ => []
  | _ + 1, [] => []
  | _ + 1, [_] => [.exn (.x15 src)]
  | fuel + 1, tag :: n :: rest =>
    if rest.length < n.toNat then [.exn (.x15 src)]
    else .descriptor src tag (rest.take n.toNat) :: descriptorEntries src fuel (rest.drop n.toNat)

/-- The descriptor loop from byte `pos` of the buffer (R280 to R282). -/
def descriptorLoop (src : Option Pid) (buf : Bytes) (pos : Nat) : List Event :=
  if buf.length < pos + 2 then [.exn (.x15 src)]
  else
    let dll := (u16be buf pos).toNat
    if buf.length < pos + 2 + dll then [.exn (.x15 src)]
    else descriptorEntries src dll ((buf.drop (pos + 2)).take dll)

/-! ## Commands -/

/-- The arguments of SPLICE (R250) together with the header read from the buffer. -/
structure SpliceCall where
  src : Option Pid
  pcr : Option PcrEntry
  buf : Bytes
  header : SpliceHeader

/-- "length not specified" (R258). -/
def lengthOpen (h : SpliceHeader) : Bool := h.commandLength == 0xFFF#12

/-- The declared end of the command, a byte offset in the buffer (R257). -/
def declaredEnd (h : SpliceHeader) : Nat := 14 + h.commandLength.toNat

/-- EV_SPLICE (R286). -/
def evSplice (c : SpliceCall) (cmd : SpliceCommand) : Event :=
  .splice c.src c.header cmd (annotation cmd c.pcr)

/-- A cancelled insert, to which the post-condition of R277 is not applied (R265). -/
def isCancel : SpliceCommand → Bool
  | .spliceInsert _ none => true
  | .spliceInsert _ (some _) | .spliceNull | .spliceSchedule _ | .timeSignal _ | .bandwidthReservation
  | .privateCommand _ | .reserved _ _ | .encrypted _ => false

/-- A self-delimiting command (R257, R258, R276, R277): parsed from byte 14; the descriptor loop starts at the
declared end, or where the parse ended when no length is declared. -/
def parsedCommand (p : Parse SpliceCommand) (c : SpliceCall) : List Event :=
  if !lengthOpen c.header && c.buf.length < declaredEnd c.header then [.exn (.x11 c.src)]
  else
    match p (brInit c.buf 112) with
    | none => [.exn (.x11 c.src)]
    | some (cmd, br) =>
      let cmdEnd := if lengthOpen c.header then br.pos / 8 else declaredEnd c.header
      let anomaly := !lengthOpen c.header && !isCancel cmd && br.pos != 8 * cmdEnd
      [evSplice c cmd] ++ (if anomaly then [.exn (.x13 c.src)] else []) ++ descriptorLoop c.src c.buf cmdEnd

/-- An opaque command (R258, R275): its body is everything up to the command's end. `notice` follows EV_SPLICE. -/
def opaqueCommand (mk : Bytes → SpliceCommand) (notice : List Event) (c : SpliceCall) : List Event :=
  if !lengthOpen c.header && c.buf.length < declaredEnd c.header then [.exn (.x11 c.src)]
  else
    let cmdEnd := if lengthOpen c.header then max 14 (c.buf.length - 2) else declaredEnd c.header
    [evSplice c (mk ((c.buf.drop 14).take (cmdEnd - 14)))] ++ notice ++ descriptorLoop c.src c.buf cmdEnd

/-- An encrypted section (R256): EV_SPLICE alone, everything after the header raw, no annotation. -/
def encryptedEvents (c : SpliceCall) : List Event := [evSplice c (.encrypted (c.buf.drop 14))]

/-- splice_null (R262). -/
def nullEvents (c : SpliceCall) : List Event := parsedCommand (pureP .spliceNull) c

/-- splice_schedule (R263). -/
def scheduleEvents (c : SpliceCall) : List Event := opaqueCommand .spliceSchedule [] c

/-- splice_insert (R264 to R269). -/
def insertEvents (c : SpliceCall) : List Event := parsedCommand insertP c

/-- time_signal (R271). -/
def timeSignalEvents (c : SpliceCall) : List Event := parsedCommand timeSignalP c

/-- bandwidth_reservation (R272). -/
def bandwidthEvents (c : SpliceCall) : List Event := parsedCommand (pureP .bandwidthReservation) c

/-- private_command (R273). -/
def privateEvents (c : SpliceCall) : List Event := opaqueCommand .privateCommand [] c

/-- A reserved type (R274): X12 follows EV_SPLICE. -/
def reservedEvents (c : SpliceCall) : List Event :=
  opaqueCommand (.reserved c.header.commandType) [.exn (.x12 c.src c.header.commandType)] c

/-- Dispatch (R256, R259). -/
def commandEvents (c : SpliceCall) : List Event :=
  if c.header.encryptedPacket = 1#1 then encryptedEvents c
  else if c.header.commandType = 0x00#8 then nullEvents c
  else if c.header.commandType = 0x04#8 then scheduleEvents c
  else if c.header.commandType = 0x05#8 then insertEvents c
  else if c.header.commandType = 0x06#8 then timeSignalEvents c
  else if c.header.commandType = 0x07#8 then bandwidthEvents c
  else if c.header.commandType = 0xFF#8 then privateEvents c
  else reservedEvents c

/-- The minimum length and the header decode (R251, R252), then `k` on what was read. -/
def withHeader (src : Option Pid) (pcr : Option PcrEntry) (buf : Bytes) (k : SpliceCall → List Event) : List Event :=
  if buf.length < 14 then [.exn (.x11 src)]
  else
    match headerP (byteAt buf 0) (brInit buf 24) with
    | none => [.exn (.x11 src)]
    | some (h, _) => k { src := src, pcr := pcr, buf := buf, header := h }

/-- `SPLICE(buf, src_pid, pcr)` (R250): the events of one section. -/
def spliceEvents (src : Option Pid) (pcr : Option PcrEntry) (buf : Bytes) : List Event :=
  withHeader src pcr buf commandEvents

/-! ## The SPLICE rows -/

/-- A SPLICE row: the events of its unit's buffer. -/
def runSplice (enc : BitVec 1) (ty : Byte) (u : SpliceUnit) (k : SpliceCall → List Event) (s : State) : State :=
  emitAll (withHeader u.srcPid u.pcr (spliceBytes enc ty u) k) s

/-- SPLICE.ENCRYPTED (R256). -/
def execSpliceEncrypted (ty : Byte) (u : SpliceUnit) (s : State) : Answer := inUnit (runSplice 1#1 ty u encryptedEvents) s

/-- SPLICE_NULL (R262). -/
def execSpliceNull (u : SpliceUnit) (s : State) : Answer := inUnit (runSplice 0#1 0x00#8 u nullEvents) s

/-- SPLICE_SCHEDULE (R263). -/
def execSpliceSchedule (u : SpliceUnit) (s : State) : Answer := inUnit (runSplice 0#1 0x04#8 u scheduleEvents) s

/-- SPLICE_INSERT (R264). -/
def execSpliceInsert (u : SpliceUnit) (s : State) : Answer := inUnit (runSplice 0#1 0x05#8 u insertEvents) s

/-- TIME_SIGNAL (R271). -/
def execTimeSignal (u : SpliceUnit) (s : State) : Answer := inUnit (runSplice 0#1 0x06#8 u timeSignalEvents) s

/-- BANDWIDTH_RESERVATION (R272). -/
def execBandwidthReservation (u : SpliceUnit) (s : State) : Answer := inUnit (runSplice 0#1 0x07#8 u bandwidthEvents) s

/-- PRIVATE_COMMAND (R273). -/
def execPrivateCommand (u : SpliceUnit) (s : State) : Answer := inUnit (runSplice 0#1 0xFF#8 u privateEvents) s

/-- SPLICE.RESERVED (R274). -/
def execSpliceReserved (tag : Byte) (u : SpliceUnit) (s : State) : Answer := inUnit (runSplice 0#1 tag u reservedEvents) s

/-! ## The INSERT, SPLICE_TIME and DESCRIPTOR rows

Each stands alone: the reader starts at the unit's first byte, ends where the parse ended, and the parsed value is
the result; an underrun raises X11 (R276) and leaves no reader and no result. -/

/-- Run a parse over a unit's bytes. -/
def runParse {α : Type} (src : Option Pid) (bytes : Bytes) (p : Parse α) (answer : α → UnitResult) (s : State) : State :=
  match p (brInit bytes 0) with
  | none => raise (.x11 src) { s with br := { buf := [], pos := 0 }, result := .none }
  | some (a, br) => { s with br := br, result := answer a }

/-- INSERT.CANCEL (R265). -/
def execInsertCancel (src : Option Pid) (eventId : BitVec 32) (reserved : BitVec 7) (rest : Bytes) (s : State) : Answer :=
  inUnit (runParse src (insertCancelBytes eventId reserved rest) insertP .command) s

/-- INSERT.PROGRAM.TIMED (R266). -/
def execInsertProgramTimed (src : Option Pid) (df : BitVec 1) (u : InsertUnit) (s : State) : Answer :=
  inUnit (runParse src (insertBytes 1#1 df 0#1 u) insertP .command) s

/-- INSERT.PROGRAM.IMMEDIATE (R266). -/
def execInsertProgramImmediate (src : Option Pid) (df : BitVec 1) (u : InsertUnit) (s : State) : Answer :=
  inUnit (runParse src (insertBytes 1#1 df 1#1 u) insertP .command) s

/-- INSERT.COMPONENT.TIMED (R267). -/
def execInsertComponentTimed (src : Option Pid) (df : BitVec 1) (u : InsertUnit) (s : State) : Answer :=
  inUnit (runParse src (insertBytes 0#1 df 0#1 u) insertP .command) s

/-- INSERT.COMPONENT.IMMEDIATE (R267). -/
def execInsertComponentImmediate (src : Option Pid) (df : BitVec 1) (u : InsertUnit) (s : State) : Answer :=
  inUnit (runParse src (insertBytes 0#1 df 1#1 u) insertP .command) s

/-- INSERT.DURATION (R268). -/
def execInsertDuration (src : Option Pid) (psf sif : BitVec 1) (u : InsertUnit) (s : State) : Answer :=
  inUnit (runParse src (insertBytes psf 1#1 sif u) insertDurationP .duration) s

/-- SPLICE_TIME.SPECIFIED (R261). -/
def execSpliceTimeSpecified (src : Option Pid) (reserved : BitVec 6) (msb : BitVec 1) (rest : Bytes) (s : State) : Answer :=
  inUnit (runParse src ((1#1 ++ reserved ++ msb) :: rest) spliceTimeP .time) s

/-- SPLICE_TIME.UNSPECIFIED (R261). -/
def execSpliceTimeUnspecified (src : Option Pid) (reserved : BitVec 7) (rest : Bytes) (s : State) : Answer :=
  inUnit (runParse src ((0#1 ++ reserved) :: rest) spliceTimeP .time) s

/-- SPLICE_DESCRIPTOR (R280, R281): one entry, `rest` being what the loop holds after its two header bytes. -/
def execSpliceDescriptor (src : Option Pid) (tag len : Byte) (rest : Bytes) (s : State) : Answer :=
  inUnit (fun s =>
    if rest.length < len.toNat then raise (.x15 src) s
    else emit (.descriptor src tag (rest.take len.toNat)) s) s

end Sys2Proof.Machine
end

