-- ==== Sys2Proof/Machine/Tables.lean ====
section
/-! DEFINITION. PAT and PMT processing, the writers of the filter table (43_psi_tables.md). -/

namespace Sys2Proof.Machine

/-- `CLASSIFY(p, form)` (R232): an equal slot is left untouched, any other is replaced by a fresh filter. Empty equals
nothing (R30); no table classifies a PID as Empty. -/
def classify (pid : Pid) (form : Form) (s : State) : State :=
  if formAt s pid = form ∧ form ≠ .empty then s else setSlot pid (freshSlot form) s

/-- The PAT entries of a section, applied in section order (R223). -/
def applyPat (ps : List (BitVec 16 × Pid)) (s : State) : State :=
  ps.foldl (fun s e => classify e.2 (.pmt e.1) s) s

/-- `PAT(pid, sec)` (R221, R222). -/
def patSection (pid : Pid) (sec : Bytes) (s : State) : State :=
  if patBad sec then raise (.x10 pid) s else applyPat (patPrograms sec) s

/-- What a PMT on `pmtPid` makes of one of its elementary streams (R229). -/
def streamForm (pmtPid : Pid) (e : Pid × Bool) : Form :=
  if e.2 then .scte35 e.1 pmtPid else .pcrWatch pmtPid

/-- Pass 2 of R225: the registry entry (R228), then the classifications in section order (R229). -/
def applyPmt (pid : Pid) (es : List (Pid × Bool)) (s : State) : State :=
  es.foldl (fun s e => classify e.1 (streamForm pid e) s)
    (if pcrAt s pid = .absent then setPcr pid .noPcr s else s)

/-- `PMT(pid, pn, sec)` (R225 to R227). -/
def pmtSection (pid : Pid) (pn : BitVec 16) (sec : Bytes) (s : State) : State :=
  match parsePmt pn sec with
  | .bad => raise (.x10 pid) s
  | .otherProgram found => raise (.x22 pid found) s
  | .streams es => applyPmt pid es s

/-- PMT.REGISTRATION.CUEI (R225, R230): the descriptor marks its stream; one that runs past its loop is a structural
fault. -/
def execPmtRegistrationCuei (pid : Pid) (len : Byte) (rest : Bytes) (s : State) : Answer :=
  inUnit (fun s =>
    if rest.length + 4 < len.toNat then raise (.x10 pid) s
    else { s with result := .cueiRegistered }) s

end Sys2Proof.Machine
end

