-- ==== Sys2Proof/Machine/Reassembler.lean ====
section
/-! DEFINITION. Unit U2, the PSI section reassembler and continuity validator (42_psi_reassembler.md). -/

namespace Sys2Proof.Machine

/-! ## COMPLETE (R200) -/

/-- The table_id a section filter accepts (R202). -/
def wantedTableId : Form → Option Byte
  | .pat => some 0x00#8
  | .pmt _ => some 0x02#8
  | .scte35 _ _ => some 0xFC#8
  | .empty | .null | .pcrWatch _ => none

/-- A CRC-good section with the filter's table_id, processed (R200). -/
def processSection (pid : Pid) (form : Form) (sec : Bytes) (s : State) : State :=
  match form with
  | .pat => patSection pid sec s
  | .pmt pn => pmtSection pid pn sec s
  | .scte35 e k => emitAll (spliceEvents (some e) (some (pcrAt s k)) (sec.take (sec.length - 4))) s
  | .empty | .null | .pcrWatch _ => s

/-- `COMPLETE(pid, f, sec)` (R200 to R202) for the filter that `FT[pid]` holds; it is called for section filters only,
and for any other form nothing happens (R164, R167). -/
def complete (pid : Pid) (sec : Bytes) (s : State) : State :=
  match wantedTableId (formAt s pid) with
  | none => s
  | some want =>
    if !crcGood sec then raise (.x08 (some pid)) s
    else if byteAt sec 0 ≠ want then raise (.x09 (some pid) (byteAt sec 0)) s
    else processSection pid (formAt s pid) sec s

/-! ## FEED (R195) -/

/-- What becomes of a partial section given more bytes. -/
inductive Gather where
  /-- Still incomplete; every byte was taken. -/
  | more (acc : Bytes)
  /-- The declared length exceeds the maximum (R198). -/
  | tooLong (sl : BitVec 12)
  /-- Complete, with the bytes left over. -/
  | whole (sec rest : Bytes)
  deriving DecidableEq, Repr

/-- One pass of FEED's loop (R195 to R197): complete the 3-byte header, check the length as soon as it is known, take
bytes up to the target. -/
def gather (acc data : Bytes) : Gather :=
  let head := acc ++ data.take (3 - acc.length)
  let data' := data.drop (3 - acc.length)
  if head.length < 3 then .more head
  else if acc.length < 3 ∧ Config.maxSectionLength < (sectionLength head).toNat then .tooLong (sectionLength head)
  else
    let target := 3 + (sectionLength head).toNat
    let acc' := head ++ data'.take (target - head.length)
    if acc'.length = target then .whole acc' (data'.drop (target - head.length)) else .more acc'

/-- The accumulator a pass starts from: the open section, or a new one where one may start at `b` (R195), stuffing
excepted. -/
def openSection (acc : Option Bytes) (fresh : Bool) (b : Byte) : Option Bytes :=
  match acc with
  | some a => some a
  | none => if fresh && b != 0xFF#8 then some [] else none

/-- `FEED(pid, f, data, fresh)` (R195): the state after, and whether the filter was replaced (R203). A table that
replaces the filter of its own PID never gives it its old form back, so a replaced filter is one whose form differs. The
fuel is the number of bytes, each pass taking at least one. -/
def feed : Nat → Pid → Form → Bytes → Bool → State → State × Bool
  | 0, _, _, _, _, s => (s, false)
  | fuel + 1, pid, f, data, fresh, s =>
    match data with
    | [] => (s, false)
    | b :: _ =>
      match openSection (accAt s pid) fresh b with
      | none => (s, false)
      | some a =>
        match gather a data with
        | .more a' => (setAcc pid (some a') s, false)
        | .tooLong sl => (setAcc pid none (raise (.x05 (some pid) sl) s), false)
        | .whole sec rest =>
          let s' := complete pid sec (setAcc pid none s)
          if formAt s' pid ≠ f then (s', true) else feed fuel pid f rest fresh s'

/-! ## CONSUME (R191) -/

/-- The continuity step of CONSUME (R192): `last_cc` is updated on every call; a gap discards a partial section. -/
def continuity (pid : Pid) (cc : Cc) (r : Reasm) (s : State) : State :=
  if ccGap r.lastCc cc ∧ r.acc ≠ none then
    raise (.x06 pid) (setReasm pid { lastCc := some cc, acc := none } s)
  else setReasm pid { r with lastCc := some cc } s

/-- The part of CONSUME for a packet that starts a section (R191, R193, R194): pointer_field `p`, then the rest of the
payload. -/
def consumeStart (pid : Pid) (f : Form) (p : Byte) (d : Bytes) (s : State) : State :=
  if d.length < p.toNat then setAcc pid none (raise (.x07 pid) s)
  else
    let tail := d.take p.toNat
    let rest := d.drop p.toNat
    if accAt s pid = none then (feed rest.length pid f rest true s).1
    else
      let (s', replaced) := feed tail.length pid f tail false s
      if replaced then s'
      else
        let s'' := if accAt s' pid = none then s' else setAcc pid none (raise (.x23 pid) s')
        (feed rest.length pid f rest true s'').1

/-- `CONSUME(pid, pusi, cc, d)` (R191, R204). DESIGN CHOICE (log entry 9): an empty `d` with PUSI 1 has no pointer_field for
R193 to check, so only the continuity check is made; no packet has one (R160, R161), a routed request may. -/
def consume (pid : Pid) (pusi : BitVec 1) (cc : Cc) (d : Bytes) (s : State) : State :=
  match reasmAt s pid with
  | none => s
  | some r =>
    let f := formAt s pid
    let s' := continuity pid cc r s
    if pusi = 1#1 then
      match d with
      | [] => s'
      | p :: rest => consumeStart pid f p rest s'
    else if accAt s' pid = none then s'
    else (feed d.length pid f d false s').1

/-! ## The literal path's checks (R367) -/

/-- The checks of R367 after the mode change, and the decode. -/
def literalChecks (b : Bytes) (s : State) : State :=
  if b.length < 3 then raise (.x11 none) s
  else
    let sl := sectionLength b
    if Config.maxSectionLength < sl.toNat then raise (.x05 none sl) s
    else if b.length < 3 + sl.toNat then raise (.x11 none) s
    else
      let sec := b.take (3 + sl.toNat)
      if byteAt sec 0 ≠ 0xFC#8 then raise (.x09 none (byteAt sec 0)) s
      else if !crcGood sec then raise (.x08 none) s
      else emitAll (spliceEvents none none (sec.take (sec.length - 4))) s

/-! ## The SECTION.HDR rows -/

/-- A whole section given to the filter of `pid`, or to the literal path: the length check of R198, then COMPLETE. DESIGN
CHOICE (log entry 13): the section does not come through FEED, so a partial section open on the PID stays as it is, after
X05 too, unless COMPLETE replaces the filter. -/
def runSection (pid : Option Pid) (sec : Bytes) (s : State) : State :=
  match pid with
  | none => literalChecks sec s
  | some p =>
    if wantedTableId (formAt s p) = none then s
    else if Config.maxSectionLength < (sectionLength sec).toNat then raise (.x05 (some p) (sectionLength sec)) s
    else complete p sec s

/-- SEC.PAT (R221). -/
def execSecPat (pid : Option Pid) (h : SectionHeader) (body : Bytes) (s : State) : Answer :=
  inUnit (runSection pid (sectionBytes 0x00#8 h body)) s

/-- SEC.PMT (R225). -/
def execSecPmt (pid : Option Pid) (h : SectionHeader) (body : Bytes) (s : State) : Answer :=
  inUnit (runSection pid (sectionBytes 0x02#8 h body)) s

/-- SEC.SPLICE (R250). -/
def execSecSplice (pid : Option Pid) (h : SectionHeader) (body : Bytes) (s : State) : Answer :=
  inUnit (runSection pid (sectionBytes 0xFC#8 h body)) s

/-- SEC.STUFFING (R195): on a PID the rest of the payload is ignored; the literal path knows no stuffing (R367). -/
def execSecStuffing (pid : Option Pid) (rest : Bytes) (s : State) : Answer :=
  inUnit (fun s =>
    match pid with
    | none => literalChecks (0xFF#8 :: rest) s
    | some _ => s) s

/-- SEC.OTHER (R202). -/
def execSecOther (pid : Option Pid) (t : Byte) (h : SectionHeader) (body : Bytes) (s : State) : Answer :=
  inUnit (runSection pid (sectionBytes t h body)) s

end Sys2Proof.Machine
end

