-- ==== Sys2Proof/Machine/Demux.lean ====
section
/-! DEFINITION. Unit U4, packet framing, PID routing and PCR capture (41_ts_demux.md). -/

namespace Sys2Proof.Machine

/-! ## Routing (R162) -/

/-- Lazy construction of an Empty slot (R163). -/
def construct (pid : Pid) (s : State) : State := setSlot pid (freshSlot (if pid = 0#13 then .pat else .null)) s

/-- A packet handed to the reassembler of a section filter (R162, R165). -/
def routeSection (u : RouteUnit) (s : State) : State :=
  match u.payload with
  | none => s
  | some d => consume u.pid u.pusi u.cc d s

/-- A packet on a PID whose filter is `PcrWatch(key)` (R167). -/
def routePcr (key : Pid) (u : RouteUnit) (s : State) : State :=
  match u.pcr with
  | none => s
  | some p => setPcr key (.seen p) s

/-- The `case FT[pid] of` of R162, for a slot that is not Empty. -/
def routeBuilt (u : RouteUnit) (s : State) : State :=
  match formAt s u.pid with
  | .empty => s
  | .null => s
  | .pcrWatch key => routePcr key u s
  | .pat => routeSection u s
  | .pmt _ => routeSection u s
  | .scte35 _ _ => routeSection u s

/-- `ROUTE(pid, pusi, cc, pcr, payload)` (R162). -/
def route (u : RouteUnit) (s : State) : State :=
  routeBuilt u (if formAt s u.pid = .empty then construct u.pid s else s)

/-! ## The FILTER rows

A row is selected by the form of `FT[pid]`; `step` selects it by that form (`Keys`), and a row whose form the slot
does not have is not the selected arm of R162's case and does nothing (log entry 5). -/

/-- A FILTER row. -/
def runRoute (form : Form) (u : RouteUnit) (act : State → State) (s : State) : State :=
  if formAt s u.pid = form then act s else s

/-- ROUTE.EMPTY (R163): the filter is constructed and then handles that same packet. -/
def execRouteEmpty (u : RouteUnit) (s : State) : Answer :=
  inUnit (runRoute .empty u fun s => routeBuilt u (construct u.pid s)) s

/-- ROUTE.NULL (R164). -/
def execRouteNull (u : RouteUnit) (s : State) : Answer := inUnit (runRoute .null u fun s => s) s

/-- ROUTE.PAT (R191). -/
def execRoutePat (u : RouteUnit) (s : State) : Answer := inUnit (runRoute .pat u (routeSection u)) s

/-- ROUTE.PMT (R191). -/
def execRoutePmt (pn : BitVec 16) (u : RouteUnit) (s : State) : Answer := inUnit (runRoute (.pmt pn) u (routeSection u)) s

/-- ROUTE.SCTE35 (R191). -/
def execRouteScte35 (e k : Pid) (u : RouteUnit) (s : State) : Answer := inUnit (runRoute (.scte35 e k) u (routeSection u)) s

/-- ROUTE.PCRWATCH (R167). -/
def execRoutePcrwatch (k : Pid) (u : RouteUnit) (s : State) : Answer := inUnit (runRoute (.pcrWatch k) u (routePcr k u)) s

/-! ## Packet parse (R159) -/

/-- A packet with payload only (R159, R161). -/
def payloadPacket (h : TsHeader) (body : Bytes) (s : State) : State :=
  route { pid := h.pid, pusi := h.pusi, cc := h.cc, pcr := none, payload := some body } s

/-- A packet with an adaptation field only: at most 183 bytes of it (R92, R160). -/
def adaptPacket (h : TsHeader) (body : Bytes) (s : State) : State :=
  match adaptation 183 body with
  | none => raise (.x04 h.pid) s
  | some (_, pcr) => route { pid := h.pid, pusi := h.pusi, cc := h.cc, pcr := pcr, payload := none } s

/-- A packet with both: at most 182 bytes of adaptation field (R92, R160, R161). -/
def adaptPayloadPacket (h : TsHeader) (body : Bytes) (s : State) : State :=
  match adaptation 182 body with
  | none => raise (.x04 h.pid) s
  | some (n, pcr) =>
    route { pid := h.pid, pusi := h.pusi, cc := h.cc, pcr := pcr, payload := some (body.drop (1 + n)) } s

/-- adaptation_field_control 00 (R160): the packet is dropped. -/
def reservedPacket (h : TsHeader) (s : State) : State := raise (.x04 h.pid) s

/-- `PACKET(P)` (R159), `P` being 188 bytes that start with the sync byte. -/
def packet (p : Bytes) (s : State) : State :=
  let w : BitVec 24 := byteAt p 1 ++ byteAt p 2 ++ byteAt p 3
  let h := tsFields w
  let body := p.drop 4
  if tsAfc w = 0#2 then reservedPacket h s
  else if tsAfc w = 1#2 then payloadPacket h body s
  else if tsAfc w = 2#2 then adaptPacket h body s
  else adaptPayloadPacket h body s

/-! ## Framing (R151 to R156) -/

/-- The answer of HUNT. -/
inductive Hunt where
  | wait
  | found (k : Nat)
  | lost
  deriving DecidableEq, Repr

/-- HUNT from candidate offset `k` on, with `left` candidates to try and `b` the bytes from offset `k` (R154). -/
def huntFrom : Nat → Nat → Bytes → Hunt
  | 0, _, _ => .lost
  | _ + 1, _, [] => .wait
  | left + 1, k, b :: rest =>
    if b ≠ Config.syncByte then huntFrom left (k + 1) rest
    else
      match (b :: rest)[Config.tsPkt]? with
      | none => .wait
      | some c => if c = Config.syncByte then .found k else huntFrom left (k + 1) rest

/-- `HUNT(b)` (R154) with the window of R10. -/
def hunt (window : Nat) (b : Bytes) : Hunt := huntFrom window 1 (b.drop 1)

/-- One resynchronisation of `PKTBUF` (R153, R155, R156), and whether the framing loop goes on. -/
def resync (s : State) : State × Bool :=
  match hunt s.params.resyncWindow s.pktbuf with
  | .wait => (s, false)
  | .found k => (raise (.x01 k) { s with pktbuf := s.pktbuf.drop k }, true)
  | .lost => (raise .x02 s, false)

/-- The loop of R151. The fuel is the length of `PKTBUF`: each pass that goes on removes at least one byte (R455). -/
def frameLoop : Nat → State → State
  | 0, s => s
  | fuel + 1, s =>
    if s.mode = .fatal then s
    else
      match s.pktbuf with
      | [] => s
      | b :: _ =>
        if b = Config.syncByte then
          if s.pktbuf.length < Config.tsPkt then s
          else
            frameLoop fuel
              (packet (s.pktbuf.take Config.tsPkt) { s with pktbuf := s.pktbuf.drop Config.tsPkt })
        else
          match resync s with
          | (s', true) => frameLoop fuel s'
          | (s', false) => s'

/-- `DEMUX.PUSH(bytes)` (R150, R151). -/
def demuxPush (bytes : Bytes) (s : State) : State :=
  frameLoop (s.pktbuf ++ bytes).length { s with pktbuf := s.pktbuf ++ bytes }

/-! ## The TS rows -/

/-- TS.PAYLOAD (R159). -/
def execTsPayload (h : TsHeader) (body : Bytes) (s : State) : Answer := inUnit (payloadPacket h body) s

/-- TS.ADAPT (R159). -/
def execTsAdapt (h : TsHeader) (body : Bytes) (s : State) : Answer := inUnit (adaptPacket h body) s

/-- TS.ADAPT.PAYLOAD (R159). -/
def execTsAdaptPayload (h : TsHeader) (body : Bytes) (s : State) : Answer := inUnit (adaptPayloadPacket h body) s

/-- TS.AFC.RESERVED (R160). The body is not looked at. -/
def execTsAfcReserved (h : TsHeader) (s : State) : Answer := inUnit (reservedPacket h) s

/-- TS.NOSYNC (R153 to R156): the bytes join `PKTBUF`, and where its head is no sync byte one hunt is made. -/
def execTsNosync (bytes : Bytes) (s : State) : Answer :=
  inUnit (fun s =>
    let s' := { s with pktbuf := s.pktbuf ++ bytes }
    match s'.pktbuf with
    | [] => s'
    | b :: _ => if b = Config.syncByte then s' else (resync s').1) s

end Sys2Proof.Machine
end

