-- ==== Sys2Proof/Machine/Rtp.lean ====
section
/-! DEFINITION. Unit U5, the RTP/UDP frame processor (45_rtp_udp.md). -/

namespace Sys2Proof.Machine

/-- `RTP.DELIVER(seq, payload)` (R306): the continuity check, then the payload, whatever the check says. -/
def rtpDeliver (seq : SeqNum) (payload : Bytes) (s : State) : State :=
  let s' :=
    match s.rtpLast with
    | none => s
    | some p => if seq = p + 1#16 then s else raise (.x17 (p + 1#16) seq) s
  demuxPush payload { s' with rtpLast := some seq }

/-- Raw UDP (R301). -/
def mainRaw (g : Bytes) (s : State) : State := demuxPush g s

/-- RTP without FEC (R303, R305). -/
def mainRtp (g : Bytes) (s : State) : State :=
  match parseRtp g with
  | none => raise (.x16 .main) s
  | some (h, payload) => rtpDeliver h.seq payload s

/-- MAIN.RAW (R301). -/
def execMainRaw (g : Bytes) (s : State) : Answer := inUnit (mainRaw g) s

/-- MAIN.RTP (R305). -/
def execMainRtp (g : Bytes) (s : State) : Answer := inUnit (mainRtp g) s

/-- RTP.V2 (R302): the parse answers the sequence number and the payload; nothing else of the header is consulted. -/
def execRtpV2 (h : RtpHeader) (payload : Bytes) (s : State) : Answer :=
  inUnit (fun s => { s with result := .rtp h.seq payload }) s

/-- RTP.MALFORMED (R303, R322): X16 on the main port, X18 on a parity port; the datagram is dropped. -/
def execRtpMalformed (port : Port) (s : State) : Answer :=
  inUnit (fun s =>
    match port with
    | .main => raise (.x16 .main) s
    | .col => raise (.x18 .col) s
    | .row => raise (.x18 .row) s) s

end Sys2Proof.Machine
end

