-- ==== Sys2Proof/Machine/Fec.lean ====
section
/-! DEFINITION. Unit U6, SMPTE-2022-1 FEC recovery (46_fec.md). -/

namespace Sys2Proof.Machine

/-! ## Intake -/

/-- Whether sequence number `k` is inside the retention window behind `hi` (R326). -/
def retained (p : Config.Params) (hi k : SeqNum) : Bool := dist k hi < p.fecRetain

/-- The eviction of R324 and R326. -/
def evict (p : Config.Params) (hi : SeqNum) (t : List (Nat × Bytes)) : List (Nat × Bytes) :=
  t.filter fun e => retained p hi (BitVec.ofNat 16 e.1)

/-- The last three lines of FEC.INSERT (R324): a duplicate is dropped, anything else stored, the window trimmed. -/
def fecStore (hi m : SeqNum) (p : Bytes) (s : State) : State × Bool :=
  if (tableGet m.toNat s.fStore).isSome then (s, false)
  else ({ s with fStore := evict s.params hi (tablePut m.toNat p s.fStore) }, true)

/-- `FEC.INSERT(s, p)` (R324): the state after, and whether the packet was stored. -/
def fecInsert (m : SeqNum) (p : Bytes) (s : State) : State × Bool :=
  match s.fHi with
  | none => fecStore m m p { s with fHi := some m, fNext := some m }
  | some hi =>
    if newer hi m then fecStore m m p { s with fHi := some m }
    else if retained s.params hi m then fecStore hi m p s
    else (s, false)

/-! ## Recovery (R328 to R336) -/

/-- `members(rec)` (R328). -/
def members (r : ParityRec) : List SeqNum :=
  (List.range r.na.toNat).map fun i => r.snbase + BitVec.ofNat 16 (i * r.offset.toNat)

/-- A record one of whose members has left the retention window (R330, R331). -/
def dead (p : Config.Params) (hi : SeqNum) (r : ParityRec) : Bool :=
  (members r).any fun m => dist m hi < 32768 && p.fecRetain ≤ dist m hi

/-- The members not in `F_STORE` (R330). -/
def missing (store : List (Nat × Bytes)) (r : ParityRec) : List SeqNum :=
  (members r).filter fun m => (tableGet m.toNat store).isNone

/-- `acc[i] <- acc[i] ^ q[i]` for every byte of `q` (R335); `q` is no longer than `acc`. -/
def xorInto : Bytes → Bytes → Bytes
  | acc, [] => acc
  | [], _ :: _ => []
  | a :: acc, b :: q => (a ^^^ b) :: xorInto acc q

/-- The loop of REBUILD over the other members (R335): the length and the bytes so far, or `none` where a member is
longer than the parity payload. -/
def rebuildFrom (store : List (Nat × Bytes)) : List SeqNum → BitVec 16 → Bytes → Option (BitVec 16 × Bytes)
  | [], len, acc => some (len, acc)
  | o :: rest, len, acc =>
    let q := (tableGet o.toNat store).getD []
    if acc.length < q.length then none
    else rebuildFrom store rest (len ^^^ BitVec.ofNat 16 q.length) (xorInto acc q)

/-- `REBUILD(rec, m)` (R335). -/
def rebuild (store : List (Nat × Bytes)) (r : ParityRec) (m : SeqNum) : Option Bytes :=
  match rebuildFrom store ((members r).filter fun o => o != m) r.lenrec r.payload with
  | none => none
  | some (len, acc) => if acc.length < len.toNat then none else some (acc.take len.toNat)

/-- One scan of `F_PAR` (R330): the records that stay, the ports of those whose rebuild failed (X24), and the packet
rebuilt, if one was. -/
structure Scan where
  keep : List ParityRec
  failed : List Port
  hit : Option (SeqNum × Bytes)
  deriving DecidableEq, Repr

/-- A scan with one more record kept before it (R333). -/
def Scan.keeping (r : ParityRec) (t : Scan) : Scan := { t with keep := r :: t.keep }

/-- A scan with one more failed rebuild before it (R334). -/
def Scan.failing (q : Port) (t : Scan) : Scan := { t with failed := q :: t.failed }

/-- The `for rec in F_PAR, oldest first` of R330, up to its break. -/
def scan (p : Config.Params) (hi : SeqNum) (store : List (Nat × Bytes)) : List ParityRec → Scan
  | [] => { keep := [], failed := [], hit := none }
  | r :: rest =>
    if dead p hi r then scan p hi store rest
    else
      match missing store r with
      | [] => scan p hi store rest
      | [m] =>
        match rebuild store r m with
        | none => (scan p hi store rest).failing r.port
        | some pay => { keep := rest, failed := [], hit := some (m, pay) }
      | _ :: _ :: _ => (scan p hi store rest).keeping r

/-- `RECOVER()` (R330, R336). The fuel is the number of parity records: each pass that goes on uses one up (R455). -/
def recover : Nat → State → State
  | 0, s => s
  | fuel + 1, s =>
    match s.fHi with
    | none => s
    | some hi =>
      let r := scan s.params hi s.fStore s.fPar
      let s' := emitAll (r.failed.map fun q => .exn (.x24 q)) { s with fPar := r.keep }
      match r.hit with
      | none => s'
      | some (m, pay) => recover fuel (fecInsert m pay s').1

/-! ## Delivery (R337) -/

/-- `DELIVER()` (R337). The fuel is the size of the sequence space: the loop advances `F_NEXT` by one each time, so it
ends within one turn of the space or never (R455). -/
def deliver : Nat → State → State
  | 0, s => s
  | fuel + 1, s =>
    match s.fNext, s.fHi with
    | some q, some hi =>
      match tableGet q.toNat s.fStore with
      | some pay =>
        let s' := rtpDeliver q pay { s with fNext := some (q + 1#16) }
        if s'.mode = .fatal then s' else deliver fuel s'
      | none =>
        if dist q hi < 32768 ∧ s.params.fecDeadline ≤ dist q hi then
          deliver fuel { s with fNext := some (q + 1#16) }
        else s
    | _, _ => s

/-- `FEC.ADVANCE()` (R329). -/
def fecAdvance (s : State) : State :=
  match s.fHi with
  | none => s
  | some _ => deliver Config.seqSpace (recover s.fPar.length s)

/-- `FEC.MEDIA(seq, payload)` (R323). -/
def fecMedia (m : SeqNum) (p : Bytes) (s : State) : State :=
  match fecInsert m p s with
  | (s', true) => fecAdvance s'
  | (s', false) => s'

/-- `FEC.PARITY(rec)` (R327). -/
def fecParity (r : ParityRec) (s : State) : State :=
  let par := s.fPar ++ [r]
  fecAdvance { s with fPar := if s.params.fecParCap < par.length then par.tail else par }

/-- The record of a parity datagram (R321, R38). -/
def parityRec (port : Port) (u : FecUnit) : ParityRec :=
  { port := port, snbase := u.snbase, offset := u.offset, na := u.na, lenrec := u.lenrec, payload := u.payload }

/-- RTP with FEC (R303, R305, R323). -/
def mainRtpFec (g : Bytes) (s : State) : State :=
  match parseRtp g with
  | none => raise (.x16 .main) s
  | some (h, payload) => fecMedia h.seq payload s

/-- A parity datagram (R321, R322). -/
def parityDgram (port : Port) (g : Bytes) (s : State) : State :=
  match parseFec g with
  | none => raise (.x18 port) s
  | some u => fecParity (parityRec port u) s

/-! ## The MAIN.RTP.FEC and FEC rows -/

/-- MAIN.RTP.FEC (R323). -/
def execMainRtpFec (g : Bytes) (s : State) : Answer := inUnit (mainRtpFec g) s

/-- FEC.COL (R321). -/
def execFecCol (u : FecUnit) (s : State) : Answer := inUnit (fecParity (parityRec .col u)) s

/-- FEC.ROW (R321). -/
def execFecRow (u : FecUnit) (s : State) : Answer := inUnit (fecParity (parityRec .row u)) s

/-- FEC.MALFORMED (R322): X18 with the port, the datagram dropped. -/
def execFecMalformed (port : Port) (s : State) : Answer := inUnit (raise (.x18 port)) s

end Sys2Proof.Machine
end

