-- ==== Sys2Proof/Machine/Commands.lean ====
section
/-! DEFINITION. The host commands (47_host_commands.md), the CONFIG operands and the bit-reader calls. -/

namespace Sys2Proof.Machine

/-! ## RESET and CONFIG -/

/-- RESET (R361): every state element takes its reset value; the events already emitted stay, and so do the parameters
and the input not yet taken, which are no state elements of R20. -/
def execReset (s : State) : Answer :=
  .next { State.reset with params := s.params, events := s.events, inbox := s.inbox }

/-- A legal CONFIG (R362) in IDLE; CONFIG is refused with X20(0x01) in every other mode (R365). -/
def configure (cfg : Byte) (mode : Mode) (s : State) : Answer :=
  command 0x01#8 (s.mode == .idle) (fun s => { s with cfg := cfg, mode := mode }) s

/-- CONFIG.FILE (R362). -/
def execConfigFile (s : State) : Answer := configure 0x01#8 .file s

/-- CONFIG.NET.RAW (R362). -/
def execConfigNetRaw (s : State) : Answer := configure 0x02#8 .net s

/-- CONFIG.SECTION (R362). -/
def execConfigSection (s : State) : Answer := configure 0x03#8 .sec s

/-- CONFIG.NET.RTP (R362). -/
def execConfigNetRtp (s : State) : Answer := configure 0x0A#8 .net s

/-- CONFIG.NET.RTP.FEC (R362). -/
def execConfigNetRtpFec (s : State) : Answer := configure 0x0E#8 .net s

/-- CONFIG.ILLEGAL (R362): refused in every mode. The operand is not stored. -/
def execConfigIllegal (s : State) : Answer := command 0x01#8 false (fun s => s) s

/-- The mode that a legal operand selects (R24, R362). -/
def configMode (cfg : Byte) : Option Mode :=
  if cfg = 0x01#8 then some .file
  else if cfg = 0x02#8 then some .net
  else if cfg = 0x03#8 then some .sec
  else if cfg = 0x0A#8 then some .net
  else if cfg = 0x0E#8 then some .net
  else none

/-- CONFIG (R362). -/
def execConfig (cfg : Byte) (s : State) : Answer :=
  match configMode cfg with
  | some mode => configure cfg mode s
  | none => command 0x01#8 false (fun s => s) s

/-! ## FILE mode -/

/-- PUSH (R363). -/
def execPush (bytes : Bytes) (s : State) : Answer := command 0x02#8 (s.mode == .file) (demuxPush bytes) s

/-- The operation of EOF (R364). -/
def endOfFile (s : State) : State :=
  let s' := if s.pktbuf = [] then s else raise (.x03 s.pktbuf.length) s
  { s' with pktbuf := [], mode := .done }

/-- EOF (R364). -/
def execEof (s : State) : Answer := command 0x03#8 (s.mode == .file) endOfFile s

/-! ## NET mode -/

/-- The size check of R366 and R341. -/
def sizeChecked (port : Port) (g : Bytes) (act : State → State) (s : State) : State :=
  if fecOn s ∧ s.params.fecSlotBytes < g.length then raise (.x21 port g.length) s else act s

/-- The main port of R366, by CFG (R300, R305). -/
def mainDgram (g : Bytes) (s : State) : State :=
  if !rtpOn s then mainRaw g s else if !fecOn s then mainRtp g s else mainRtpFec g s

/-- DGRAM.MAIN (R366). -/
def execDgramMain (g : Bytes) (s : State) : Answer :=
  command 0x04#8 (s.mode == .net) (sizeChecked .main g (mainDgram g)) s

/-- DGRAM.COL (R366). -/
def execDgramCol (g : Bytes) (s : State) : Answer :=
  command 0x05#8 (s.mode == .net && fecOn s) (sizeChecked .col g (parityDgram .col g)) s

/-- DGRAM.ROW (R366). -/
def execDgramRow (g : Bytes) (s : State) : Answer :=
  command 0x06#8 (s.mode == .net && fecOn s) (sizeChecked .row g (parityDgram .row g)) s

/-- RXERR (R368). -/
def execRxerr (s : State) : Answer := command 0x08#8 (s.mode == .net) (raise .x19) s

/-! ## SECTION mode and illegal codes -/

/-- SECTION (R367). -/
def execLiteralSection (buf : Bytes) (s : State) : Answer :=
  command 0x07#8 (s.mode == .sec) (fun s => literalChecks buf { s with mode := .done }) s

/-- HOST.ILLEGAL (R369). The operand is not looked at. -/
def execHostIllegal (code : Byte) (s : State) : Answer := command code false (fun s => s) s

/-! ## The bit-reader calls (R131 to R134) -/

/-- BR.INIT. -/
def execBrInit (buf : Bytes) (p : Nat) (s : State) : Answer := inUnit (fun s => { s with br := brInit buf p }) s

/-- BR.READ. -/
def execBrRead (n : Fin 65) (s : State) : Answer :=
  inUnit (fun s =>
    match brRead n.val s.br with
    | none => { s with result := .underrun }
    | some (v, br) => { s with br := br, result := .value v }) s

/-- BR.SKIP. -/
def execBrSkip (n : Nat) (s : State) : Answer :=
  inUnit (fun s =>
    match brSkip n s.br with
    | none => { s with result := .underrun }
    | some br => { s with br := br, result := .ok }) s

/-- BR.POS. -/
def execBrPos (s : State) : Answer := inUnit (fun s => { s with result := .position s.br.pos }) s

/-- BR.ALIGNED. -/
def execBrAligned (s : State) : Answer := inUnit (fun s => { s with result := .aligned (brAligned s.br) }) s

/-! ## Requests that are the unit of no row

A row of the opcode table needs a whole unit of its format. What a request does that is cut short, or selected by no
row, is what the rules of its procedure make of those bytes; log entry 9 says where the model chose. -/

/-- Bytes for the section filter of `pid` that are not one section: FEED as after a pointer_field (R195 to R198). -/
def feedLoose (pid : Pid) (bytes : Bytes) (s : State) : State :=
  if wantedTableId (formAt s pid) = none then s else (feed bytes.length pid (formAt s pid) bytes true s).1

/-- A PMT descriptor that marks no stream: skipped, or a structural fault of its loop (R225, R230). -/
def skipPmtDescriptor (pid : Pid) (bytes : Bytes) (s : State) : State :=
  match bytes with
  | [] => s
  | [_] => raise (.x10 pid) s
  | _ :: len :: rest => if rest.length < len.toNat then raise (.x10 pid) s else { s with result := .none }

/-- What a request does that no row of the opcode table matches. -/
def offTable (r : Request) (s : State) : Answer :=
  match r with
  -- an operand that R120 does not give the command: an illegal command (R369)
  | .host code _ => command code false (fun s => s) s
  -- bytes at the head of the stream that are not one packet (R151)
  | .ts bytes => inUnit (demuxPush bytes) s
  | .route u => inUnit (route u) s
  | .sec none bytes => inUnit (literalChecks bytes) s
  | .sec (some pid) bytes => inUnit (feedLoose pid bytes) s
  -- fewer than 14 bytes: X11 (R251)
  | .splice src pcr bytes => inUnit (emitAll (spliceEvents src pcr bytes)) s
  -- bytes that end inside a field: X11 (R276)
  | .insert src bytes => inUnit (runParse src bytes insertP .command) s
  | .duration src bytes => inUnit (runParse src bytes insertP fun _ => .none) s
  | .spliceTime src bytes => inUnit (runParse src bytes spliceTimeP .time) s
  -- no entry left, or one byte of one (R280)
  | .descriptor src bytes => inUnit (emitAll (descriptorEntries src bytes.length bytes)) s
  | .pmtDescriptor pid bytes => inUnit (skipPmtDescriptor pid bytes) s
  -- a datagram on MAIN that CFG selects no row for: the command that brings it (R366)
  | .mainDgram g => execDgramMain g s
  | .fec .main g => execDgramMain g s
  -- each of these is always the unit of a row
  | .cfg _ | .rtp _ _ | .fec .col _ | .fec .row _ | .brInit _ _ | .brRead _ | .brSkip _ | .brPos | .brAligned => .next s

end Sys2Proof.Machine
end

