-- ==== Sys2Proof/Machine/Dispatch.lean ====
section
/-! DEFINITION. The dispatch of instructions to their meanings, one arm per row of spec/opcode_table.json. -/

namespace Sys2Proof.Machine

def exec (i : Instr) (s : State) : Host.Outcome State Fault Refusal :=
  match i with
  | .reset => Sys2Proof.Machine.execReset s
  | .config cfg => Sys2Proof.Machine.execConfig cfg s
  | .push bytes => Sys2Proof.Machine.execPush bytes s
  | .eof => Sys2Proof.Machine.execEof s
  | .dgramMain g => Sys2Proof.Machine.execDgramMain g s
  | .dgramCol g => Sys2Proof.Machine.execDgramCol g s
  | .dgramRow g => Sys2Proof.Machine.execDgramRow g s
  | .literalSection buf => Sys2Proof.Machine.execLiteralSection buf s
  | .rxerr => Sys2Proof.Machine.execRxerr s
  | .hostIllegal code _ => Sys2Proof.Machine.execHostIllegal code s
  | .configFile => Sys2Proof.Machine.execConfigFile s
  | .configNetRaw => Sys2Proof.Machine.execConfigNetRaw s
  | .configSection => Sys2Proof.Machine.execConfigSection s
  | .configNetRtp => Sys2Proof.Machine.execConfigNetRtp s
  | .configNetRtpFec => Sys2Proof.Machine.execConfigNetRtpFec s
  | .configIllegal _ => Sys2Proof.Machine.execConfigIllegal s
  | .tsPayload h body => Sys2Proof.Machine.execTsPayload h body s
  | .tsAdapt h body => Sys2Proof.Machine.execTsAdapt h body s
  | .tsAdaptPayload h body => Sys2Proof.Machine.execTsAdaptPayload h body s
  | .tsAfcReserved h _ => Sys2Proof.Machine.execTsAfcReserved h s
  | .tsNosync bytes => Sys2Proof.Machine.execTsNosync bytes s
  | .routeEmpty u => Sys2Proof.Machine.execRouteEmpty u s
  | .routeNull u => Sys2Proof.Machine.execRouteNull u s
  | .routePat u => Sys2Proof.Machine.execRoutePat u s
  | .routePmt programNumber u => Sys2Proof.Machine.execRoutePmt programNumber u s
  | .routeScte35 elementaryPid pcrKey u => Sys2Proof.Machine.execRouteScte35 elementaryPid pcrKey u s
  | .routePcrwatch pcrKey u => Sys2Proof.Machine.execRoutePcrwatch pcrKey u s
  | .secPat pid h body => Sys2Proof.Machine.execSecPat pid h body s
  | .secPmt pid h body => Sys2Proof.Machine.execSecPmt pid h body s
  | .secSplice pid h body => Sys2Proof.Machine.execSecSplice pid h body s
  | .secStuffing pid rest => Sys2Proof.Machine.execSecStuffing pid rest s
  | .secOther pid tableId h body => Sys2Proof.Machine.execSecOther pid tableId h body s
  | .spliceEncrypted commandType u => Sys2Proof.Machine.execSpliceEncrypted commandType u s
  | .spliceNull u => Sys2Proof.Machine.execSpliceNull u s
  | .spliceSchedule u => Sys2Proof.Machine.execSpliceSchedule u s
  | .spliceInsert u => Sys2Proof.Machine.execSpliceInsert u s
  | .timeSignal u => Sys2Proof.Machine.execTimeSignal u s
  | .bandwidthReservation u => Sys2Proof.Machine.execBandwidthReservation u s
  | .privateCommand u => Sys2Proof.Machine.execPrivateCommand u s
  | .spliceReserved tag u => Sys2Proof.Machine.execSpliceReserved tag u s
  | .insertCancel src eventId reserved rest => Sys2Proof.Machine.execInsertCancel src eventId reserved rest s
  | .insertProgramTimed src durationFlag u => Sys2Proof.Machine.execInsertProgramTimed src durationFlag u s
  | .insertProgramImmediate src durationFlag u => Sys2Proof.Machine.execInsertProgramImmediate src durationFlag u s
  | .insertComponentTimed src durationFlag u => Sys2Proof.Machine.execInsertComponentTimed src durationFlag u s
  | .insertComponentImmediate src durationFlag u => Sys2Proof.Machine.execInsertComponentImmediate src durationFlag u s
  | .insertDuration src programSplice spliceImmediate u => Sys2Proof.Machine.execInsertDuration src programSplice spliceImmediate u s
  | .spliceTimeSpecified src reserved ptsMsb rest => Sys2Proof.Machine.execSpliceTimeSpecified src reserved ptsMsb rest s
  | .spliceTimeUnspecified src reserved rest => Sys2Proof.Machine.execSpliceTimeUnspecified src reserved rest s
  | .spliceDescriptor src tag len rest => Sys2Proof.Machine.execSpliceDescriptor src tag len rest s
  | .pmtRegistrationCuei pid len rest => Sys2Proof.Machine.execPmtRegistrationCuei pid len rest s
  | .mainRaw g => Sys2Proof.Machine.execMainRaw g s
  | .mainRtp g => Sys2Proof.Machine.execMainRtp g s
  | .mainRtpFec g => Sys2Proof.Machine.execMainRtpFec g s
  | .rtpV2 _ h payload => Sys2Proof.Machine.execRtpV2 h payload s
  | .rtpMalformed port _ => Sys2Proof.Machine.execRtpMalformed port s
  | .fecCol u => Sys2Proof.Machine.execFecCol u s
  | .fecRow u => Sys2Proof.Machine.execFecRow u s
  | .fecMalformed port _ => Sys2Proof.Machine.execFecMalformed port s
  | .brInit buf p => Sys2Proof.Machine.execBrInit buf p s
  | .brRead n => Sys2Proof.Machine.execBrRead n s
  | .brSkip n => Sys2Proof.Machine.execBrSkip n s
  | .brPos => Sys2Proof.Machine.execBrPos s
  | .brAligned => Sys2Proof.Machine.execBrAligned s

end Sys2Proof.Machine
end

