-- ==== Sys2Proof/Machine/Step.lean ====
section
/-! DEFINITION. One step: the device takes the oldest pending request, decodes it and runs it to completion before it
looks at the next (R69, R360). -/

namespace Sys2Proof.Machine

/-- The PID whose filter slot selects the row of a request; only a routed packet has one (R162). -/
def State.keys (s : State) (r : Request) : Keys :=
  match r with
  | .route u => { form := formAt s u.pid, cfg := s.cfg }
  | .host _ _ | .cfg _ | .ts _ | .sec _ _ | .splice _ _ _ | .insert _ _ | .duration _ _ | .spliceTime _ _
  | .descriptor _ _ | .pmtDescriptor _ _ | .mainDgram _ | .rtp _ _ | .fec _ _ | .brInit _ _ | .brRead _
  | .brSkip _ | .brPos | .brAligned => { form := .empty, cfg := s.cfg }

/-- The decoder on a request in a state. -/
def State.decodeRequest (s : State) (r : Request) : Decoded := decode (s.keys r) r

/-- One step. With nothing pending the device waits and keeps all state (R459). -/
def step (s : State) : Host.Outcome State Fault Refusal :=
  match s.inbox with
  | [] => .next s
  | r :: rest =>
    match s.decodeRequest r with
    | .instr i => exec i { s with inbox := rest }
    | .reject _ => offTable r { s with inbox := rest }

/-- The opcode table's word placed where the next step fetches: at the head of the input. -/
def State.withFetchWord (s : State) (nbits w : Nat) : State :=
  match tableRequest nbits w with
  | none => s
  | some r => { s with inbox := r :: s.inbox }

end Sys2Proof.Machine
end

