-- ==== Sys2Proof/Safety.lean ====
section
/-! DEFINITION. What holds of every good state of TS-DEMUX, and the spec's own layouts of the values that the claims
speak of, in the terms the claims use. The device has no load/store memory (R44): its memory is the sparse tables behind
`FT`, `PCRREG` and `F_STORE`. -/

namespace Sys2Proof.Machine

/-! ## Canonical form of the tables -/

/-- Keys strictly rising from `lo` on, each below `bound`. -/
def keysRising {α : Type} (bound : Nat) : Nat → List (Nat × α) → Bool
  | _, [] => true
  | lo, (k, _) :: rest => lo ≤ k && k < bound && keysRising bound (k + 1) rest

/-- A slot that a table lists: not Empty, which is what an unlisted slot reads as. -/
def slotListed (e : Nat × Slot) : Bool := e.2 != .empty

/-- An entry that the registry lists: not Absent, which is what an unlisted entry reads as. -/
def pcrListed (e : Nat × PcrEntry) : Bool := e.2 != .absent

/-- The canonical form of the device's memory: equal memories are equal lists (R28, R34, R37, R44). -/
def Memory.wf (s : State) : Bool :=
  keysRising 8192 0 s.ft && s.ft.all slotListed && keysRising 8192 0 s.pcrreg && s.pcrreg.all pcrListed &&
    keysRising Config.seqSpace 0 s.fStore

/-! ## Invariants between transactions -/

/-- R205: idle, or a header in progress, or a legal section with bytes to come. -/
def Reasm.ok (r : Reasm) : Bool :=
  match r.acc with
  | none => true
  | some b =>
    1 ≤ b.length &&
      (b.length ≤ 2 || ((sectionLength b).toNat ≤ Config.maxSectionLength && b.length < 3 + (sectionLength b).toNat))

/-- R205 for every section filter. -/
def ReasmInv (s : State) : Prop := ∀ pid r, reasmAt s pid = some r → r.ok = true

/-- Only PID 0 has a Pat filter (R220); a Scte35 filter holds its own PID (R29); the registry entry that a filter names
exists (R167). -/
def FilterInv (s : State) : Prop :=
  ∀ pid,
    (formAt s pid = .pat → pid = 0#13) ∧
      (∀ e k, formAt s pid = .scte35 e k → e = pid ∧ pcrAt s k ≠ .absent) ∧
        (∀ k, formAt s pid = .pcrWatch k → pcrAt s k ≠ .absent)

/-- The values of `CFG` that go with a mode (R24, R25, R362, R365): a run that ended normally was FILE or SECTION, a
fatal one may have been any. -/
def cfgOk (m : Mode) (cfg : BitVec 8) : Bool :=
  match m with
  | .idle => cfg == 0x00#8
  | .file => cfg == 0x01#8
  | .net => cfg == 0x02#8 || cfg == 0x0A#8 || cfg == 0x0E#8
  | .sec => cfg == 0x03#8
  | .done => cfg == 0x01#8 || cfg == 0x03#8
  | .fatal => cfg == 0x00#8 || legalCfg cfg

/-- `FATAL_CODE` and the emptied `PKTBUF` of the fatal latch (R25, R396). -/
def fatalOk (s : State) : Bool :=
  if s.mode = .fatal then (s.fatalCode == 2#8 || s.fatalCode == 19#8) && s.pktbuf.isEmpty else s.fatalCode == 0#8

/-- The control registers agree (R24, R25, R396). -/
def ControlInv (s : State) : Prop := cfgOk s.mode s.cfg = true ∧ fatalOk s = true

/-- The bit cursor never passes the end of its buffer (R43, R133). -/
def CursorInv (s : State) : Prop := s.br.pos ≤ 8 * s.br.buf.length

/-- A parity record as the device keeps it (R38). -/
def ParityRec.ok (r : ParityRec) : Bool := r.port != .main && r.offset != 0#8 && r.na != 0#8

/-- The FEC window (R10, R36 to R38): both numbers or neither; every stored number inside the retention window; at most
`FEC_PAR_CAP` records. -/
def FecInv (s : State) : Prop :=
  s.params.Valid ∧ (s.fHi = none ↔ s.fNext = none) ∧ (s.fHi = none → s.fStore = []) ∧
    (∀ hi, s.fHi = some hi → ∀ m : SeqNum, (tableGet m.toNat s.fStore).isSome = true → dist m hi < s.params.fecRetain) ∧
      s.fPar.length ≤ s.params.fecParCap ∧ s.fPar.all ParityRec.ok = true

/-- Nothing more can be recovered and nothing more can be delivered (R329): RECOVER removes and rebuilds nothing, and the
next number is neither stored nor past its deadline. -/
def fecSettled (s : State) : Prop :=
  ∀ hi q, s.fHi = some hi → s.fNext = some q →
    (∀ r ∈ s.fPar, dead s.params hi r = false ∧ 2 ≤ (missing s.fStore r).length) ∧
      (tableGet q.toNat s.fStore).isSome = false ∧ ¬ (dist q hi < 32768 ∧ s.params.fecDeadline ≤ dist q hi)

/-- R26: what `PKTBUF` holds between host transactions. -/
def PktbufInv (s : State) : Prop :=
  match s.pktbuf with
  | [] => True
  | b :: _ =>
    if b = Config.syncByte then s.pktbuf.length < Config.tsPkt
    else s.pktbuf.length ≤ s.params.resyncWindow + Config.tsPkt

/-- The next request, if there is one, is a host transaction (log entry 2). -/
def HostNext (s : State) : Prop := ∀ r, s.inbox.head? = some r → r.isHost = true

/-! ## What may stand in a claim about a frame -/

/-- Everything but the filter table, the registry, `PKTBUF`, the mode with its code, and the events is as before: the
frame of the demultiplexer. -/
def demuxFrame (s t : State) : Prop :=
  t.params = s.params ∧ t.cfg = s.cfg ∧ t.rtpLast = s.rtpLast ∧ t.fHi = s.fHi ∧ t.fNext = s.fNext ∧
    t.fStore = s.fStore ∧ t.fPar = s.fPar ∧ t.br = s.br ∧ t.result = s.result ∧ t.inbox = s.inbox

/-- Events are only appended (R46). -/
def eventsGrow (s t : State) : Prop := ∃ es, t.events = s.events ++ es

/-- The FILTER row that a slot's form selects (R125 item 3, R162). -/
def routeRow (form : Form) (u : RouteUnit) : Instr :=
  match form with
  | .empty => .routeEmpty u
  | .null => .routeNull u
  | .pat => .routePat u
  | .pmt pn => .routePmt pn u
  | .scte35 e k => .routeScte35 e k u
  | .pcrWatch k => .routePcrwatch k u

/-! ## Layouts of the spec, written once for the claims -/

/-- The bytes as one big-endian number (R14, R60). -/
def beNat (bs : Bytes) : Nat := bs.foldl (fun a b => 256 * a + b.toNat) 0

/-- A splice_time (R105); `res` stands in the reserved bits. Immediate has no bytes (R266). -/
def timeBytes (res : BitVec 7) : SpliceTime → Bytes
  | .immediate => []
  | .timed none => [0#1 ++ res]
  | .timed (some pts) => be40 (1#1 ++ res.extractLsb' 0 6 ++ pts)

/-- splice_immediate_flag of a time. -/
def timeFlag (t : SpliceTime) : BitVec 1 := if t = .immediate then 1#1 else 0#1

/-- A component (R104, R267). -/
def componentBytes (res : BitVec 7) (c : SpliceComponent) : Bytes := c.tag :: timeBytes res c.time

/-- program_splice_flag of a splice_mode. -/
def modeFlag : SpliceMode → BitVec 1
  | .program _ => 1#1
  | .components _ => 0#1

/-- splice_immediate_flag of a splice_mode; an empty component list takes `dflt`. -/
def immediateFlag (dflt : BitVec 1) : SpliceMode → BitVec 1
  | .program t => timeFlag t
  | .components [] => dflt
  | .components (c :: _) => timeFlag c.time

/-- The time part of a splice_insert body (R104, R266, R267). -/
def modeBytes (res : BitVec 7) : SpliceMode → Bytes
  | .program t => timeBytes res t
  | .components cs => BitVec.ofNat 8 cs.length :: cs.flatMap (componentBytes res)

/-- One flag covers the times of all components, and their count is a byte: what an encoding can say (R104, R267). -/
def modeEncodable : SpliceMode → Bool
  | .program _ => true
  | .components cs =>
    cs.length ≤ 255 && (cs.all (fun c => c.time == .immediate) || cs.all (fun c => c.time != .immediate))

/-- return_mode (R106). -/
def returnFlag : ReturnMode → BitVec 1
  | .automatic => 1#1
  | .manual => 0#1

/-- A break duration (R106). -/
def durationBytes (res : BitVec 7) (d : SpliceDuration) : Bytes :=
  be40 (returnFlag d.returnMode ++ res.extractLsb' 0 6 ++ d.duration)

/-- The break duration part of a body (R104). -/
def optDurationBytes (res : BitVec 7) : Option SpliceDuration → Bytes
  | none => []
  | some d => durationBytes res d

/-- duration_flag. -/
def durationFlag (d : Option SpliceDuration) : BitVec 1 := if d.isSome then 1#1 else 0#1

/-- network_indicator (R104). -/
def networkFlag : NetworkIndicator → BitVec 1
  | .inward => 0#1
  | .outward => 1#1

/-- The bytes after the flag byte of a splice_insert body (R104). -/
def insertRest (res : BitVec 7) (d : InsertDetail) : Bytes :=
  modeBytes res d.spliceMode ++ optDurationBytes res d.duration ++ be16 d.uniqueProgramId ++
    [d.availNum, d.availsExpected]

/-- The splice_insert body of a value (R104, the encoder of R288); `res` stands in the reserved bits. -/
def insertBody (res : BitVec 7) (sif : BitVec 1) (eventId : BitVec 32) (d : InsertDetail) : Bytes :=
  insertBytes (modeFlag d.spliceMode) (durationFlag d.duration) (immediateFlag sif d.spliceMode)
    { eventId := eventId, reserved := res, networkIndicator := networkFlag d.networkIndicator
      reserved2 := res.extractLsb' 0 4, rest := insertRest res d }

/-- The header that R252 reads from a splice unit. -/
def unitHeader (enc : BitVec 1) (ty : Byte) (u : SpliceUnit) : SpliceHeader :=
  { tableId := u.tableId, protocolVersion := u.protocolVersion, encryptedPacket := enc
    encryptionAlgorithm := u.encryptionAlgorithm, ptsAdjustment := u.ptsAdjustment, cwIndex := u.cwIndex
    tier := u.tier, commandLength := u.commandLength, commandType := ty }

/-- Descriptors one after another: tag, length, data (R100, R109). -/
def entryBytes (ds : List (Byte × Bytes)) : Bytes := ds.flatMap fun d => d.1 :: BitVec.ofNat 8 d.2.length :: d.2

/-- A descriptor loop (R109): its length, then its entries. -/
def descriptorBytes (ds : List (Byte × Bytes)) : Bytes :=
  be16 (BitVec.ofNat 16 (entryBytes ds).length) ++ entryBytes ds

/-- What is left of a loop where no whole descriptor is (R226, R280): one byte, or a length that runs past it. -/
def brokenEntry (cut : Bytes) : Prop :=
  cut.length = 1 ∨ ∃ tag len short, cut = tag :: len :: short ∧ short.length < len.toNat

/-- Entries that fit their length bytes, in a loop that fits its length field. -/
def descriptorsFit (ds : List (Byte × Bytes)) : Prop :=
  (∀ d ∈ ds, d.2.length ≤ 255) ∧ (descriptorBytes ds).length ≤ 65537

/-- The event of one surfaced descriptor (R287). -/
def descriptorEvent (src : Option Pid) (d : Byte × Bytes) : Event := .descriptor src d.1 d.2

/-- One elementary stream of a PMT: stream_type, PID, descriptors (R99). -/
structure PmtStream where
  streamType : Byte
  pid : Pid
  descriptors : List (Byte × Bytes)
  deriving DecidableEq, Repr

/-- A PMT entry (R99), every reserved bit 1. -/
def pmtEntry (e : PmtStream) : Bytes :=
  [e.streamType] ++ be16 (0x7#3 ++ e.pid) ++
    be16 (0xF#4 ++ BitVec.ofNat 12 (entryBytes e.descriptors).length) ++ entryBytes e.descriptors

/-- A PMT section (R99) with any CRC bytes: `head` is bytes 5 to 9, `info` the program-level descriptors and `tail` what
stands between the entries and the CRC, which in a sound section is nothing. -/
def pmtBytes (h : SectionHeader) (pn : BitVec 16) (head : BitVec 40) (info : Bytes) (es : List PmtStream) (tail : Bytes)
    (crc : BitVec 32) : Bytes :=
  sectionBytes 0x02#8 h
    (be16 pn ++ be40 head ++ be16 (0xF#4 ++ BitVec.ofNat 12 info.length) ++ info ++ es.flatMap pmtEntry ++ tail ++
      be32 crc)

/-- The structural faults of the elementary stream loop (R226): fewer than 5 bytes for an entry, an ES_info_length past
the section, or a descriptor past its entry. -/
def brokenStream (tail : Bytes) : Prop :=
  (1 ≤ tail.length ∧ tail.length ≤ 4) ∨
    ∃ ty p1 p0 l1 l0 rest, tail = ty :: p1 :: p0 :: l1 :: l0 :: rest ∧
      let eil := ((l1 ++ l0).extractLsb' 0 12).toNat
      (rest.length < eil ∨
        ∃ ds cut, (∀ d ∈ ds, d.2.length ≤ 255) ∧ brokenEntry cut ∧ eil = (entryBytes ds ++ cut).length ∧
          rest.take eil = entryBytes ds ++ cut)

/-- R230: a registration descriptor whose data begins "CUEI". -/
def isCuei (d : Byte × Bytes) : Bool := d.1 == 0x05#8 && d.2.take 4 == cuei

/-- Entries that fit their length fields. -/
def pmtFits (info : Bytes) (es : List PmtStream) : Prop :=
  info.length < 4096 ∧
    ∀ e ∈ es, (entryBytes e.descriptors).length < 4096 ∧ ∀ d ∈ e.descriptors, d.2.length ≤ 255

/-- Entry `i` of a PAT section (R98): program_number and PID. -/
def patEntry (sec : Bytes) (i : Nat) : BitVec 16 × Pid :=
  (u16be sec (8 + 4 * i), (u16be sec (10 + 4 * i)).extractLsb' 0 13)

/-- The program numbers that the entries naming `pid` give it, in section order (R223, R224 b and c). -/
def patNamed (sec : Bytes) (pid : Pid) : List (BitVec 16) :=
  (((List.range ((sec.length - 12) / 4)).map (patEntry sec)).filter fun e => e.1 != 0#16 && e.2 == pid).map Prod.fst

/-- The annotation that R283 and R284 give a command with this splice_mode: with a timed and specified pts_time and a
stored PCR, the one number between -2^32 and 2^32 - 1 congruent to their difference modulo 2^33; otherwise none. -/
def annotates (pcr : Option PcrEntry) (m : SpliceMode) (ann : Option Int) : Prop :=
  (∀ pts p, m = .program (.timed (some pts)) → pcr = some (.seen p) →
    ∃ e : Int, -4294967296 ≤ e ∧ e ≤ 4294967295 ∧ (e - ((pts.toNat : Int) - p.base.toNat)) % 8589934592 = 0 ∧
      ann = some e) ∧
    ((∀ pts p, m = .program (.timed (some pts)) → pcr ≠ some (.seen p)) → ann = none)

/-- Exclusive or of two payloads, the shorter extended with zero bytes (R119). -/
def xorPad : Bytes → Bytes → Bytes
  | [], q => q
  | a :: p, [] => a :: p
  | a :: p, b :: q => (a ^^^ b) :: xorPad p q

/-- The parity payload of a list of payloads (R119). -/
def parityPayload (ps : List Bytes) : Bytes := ps.foldr xorPad []

/-- The length recovery field of a list of payloads (R119). -/
def parityLength (ps : List Bytes) : BitVec 16 := ps.foldr (fun p l => BitVec.ofNat 16 p.length ^^^ l) 0#16

/-! ## FEC groups and delivery -/

/-- The record of a parity unit (R38, R327). -/
def recordOf (port : Port) (u : FecUnit) : ParityRec :=
  { port := port, snbase := u.snbase, offset := u.offset, na := u.na, lenrec := u.lenrec, payload := u.payload }

/-- The sequence numbers that a record protects (R328). -/
def recGroup (r : ParityRec) : List SeqNum := (List.range r.na.toNat).map fun i => r.snbase + BitVec.ofNat 16 (i * r.offset.toNat)

/-- The sequence numbers that a parity unit protects (R118, R328). -/
def fecGroup (u : FecUnit) : List SeqNum := recGroup (recordOf .col u)

/-- Whether a sequence number is in `F_STORE`. -/
def stored (s : State) (k : SeqNum) : Bool := (tableGet k.toNat s.fStore).isSome

/-- R337: `F_HI` has run `FEC_DEADLINE` or more ahead of the number, which is given up. -/
def overdue (s : State) (hi k : SeqNum) : Prop := dist k hi < 32768 ∧ s.params.fecDeadline ≤ dist k hi

/-- The stored packets among the `n` numbers from `q` on, in order. -/
def storedRun (s : State) (q : SeqNum) (n : Nat) : List (SeqNum × Bytes) :=
  (List.range n).filterMap fun j =>
    (tableGet (q + BitVec.ofNat 16 j).toNat s.fStore).map fun p => (q + BitVec.ofNat 16 j, p)

/-- R337, R338: `t` is `s` with `F_NEXT` = `q` moved over `n` numbers, each stored or given up, and the stored ones
handed to RTP.DELIVER in order; the next number is neither, unless the last push was fatal. -/
def deliversFrom (hi q : SeqNum) (s t : State) : Prop :=
  ∃ n : Nat, (∀ j : Nat, j < n → stored s (q + BitVec.ofNat 16 j) = true ∨ overdue s hi (q + BitVec.ofNat 16 j)) ∧
    t = (storedRun s q n).foldl (fun s e => rtpDeliver e.1 e.2 s) { s with fNext := some (q + BitVec.ofNat 16 n) } ∧
      (t.mode = .fatal ∨
        (stored s (q + BitVec.ofNat 16 n) = false ∧ ¬ overdue s hi (q + BitVec.ofNat 16 n)))

/-- `F_STORE` and `F_HI` after packet `m` with payload `p` has come into the window (R324, R326): `F_HI` is `m` where `m` is
newer, and what is not within `FEC_RETAIN` of it is evicted. -/
def windowWith (hi m : SeqNum) (p : Bytes) (s t : State) : Prop :=
  let hi' := if 0 < dist hi m ∧ dist hi m < 32768 then m else hi
  t.fHi = some hi' ∧
    ∀ o : SeqNum, tableGet o.toNat t.fStore =
      if o = m then some p else if dist o hi' < s.params.fecRetain then tableGet o.toNat s.fStore else none

/-! ## Recovery -/

/-- R331: the number is `FEC_RETAIN` or more behind `F_HI`. -/
def leftWindow (hi o : SeqNum) (s : State) : Prop := s.params.fecRetain ≤ dist o hi ∧ dist o hi < 32768

/-- Every stored payload is the original of its number, and every record carries the parity and length recovery of the
originals of its members (R119). -/
def fecFrom (orig : SeqNum → Bytes) (records : List ParityRec) (s : State) : Prop :=
  (∀ (o : SeqNum) p, tableGet o.toNat s.fStore = some p → p = orig o) ∧
    ∀ r ∈ records, (∀ o ∈ recGroup r, (orig o).length < 65536) ∧
      r.payload = parityPayload ((recGroup r).map orig) ∧ r.lenrec = parityLength ((recGroup r).map orig)

/-- The number is behind `F_HI`, or so little ahead of it that `F_HI` may come to it and what has then left the window is
still behind it by the circular comparison (R18). -/
def noTurn (hi o : SeqNum) (s : State) : Prop := dist o hi < 32768 ∨ dist hi o + s.params.fecRetain ≤ 32768

/-- R330 to R333, R335, R336: what RECOVER makes of `s`, whose `F_HI` is `hi`, with `records` waiting. Only the window and
the records differ. What is stored is what was, but for what left the window, and originals of members of records that
are gone; `F_HI` is as it was or the newest of those. A record left has two members missing and none behind the window;
a record gone has every member stored, or one behind the window. -/
def recoversFrom (orig : SeqNum → Bytes) (hi : SeqNum) (records : List ParityRec) (s t : State) : Prop :=
  ∃ hi', t = { s with fHi := some hi', fStore := t.fStore, fPar := t.fPar } ∧
    (hi' = hi ∨ (0 < dist hi hi' ∧ dist hi hi' < 32768 ∧ stored s hi' = false ∧ stored t hi' = true)) ∧
    (∀ (o : SeqNum) p, tableGet o.toNat t.fStore = some p → dist o hi' < s.params.fecRetain ∧
      (tableGet o.toNat s.fStore = some p ∨
        (stored s o = false ∧ p = orig o ∧ ∃ r ∈ records, r ∉ t.fPar ∧ o ∈ recGroup r))) ∧
    (∀ o, stored s o = true → dist o hi' < s.params.fecRetain → stored t o = true) ∧
    t.fPar.Sublist records ∧
    (∀ r ∈ t.fPar, (∀ o ∈ recGroup r, ¬ leftWindow hi' o s) ∧
      ∃ a ∈ recGroup r, ∃ b ∈ recGroup r, a ≠ b ∧ stored t a = false ∧ stored t b = false) ∧
    ∀ r ∈ records, r ∉ t.fPar → (∃ o ∈ recGroup r, leftWindow hi' o s) ∨ ∀ o ∈ recGroup r, stored t o = true

end Sys2Proof.Machine
end

