-- ==== Sys2Proof/Certificates/Slice0/Obligations.lean ====
section
/-! DEFINITION. The statements about TS-DEMUX for the provers: one proposition each, in the terms of Sys2Proof/Safety.lean and of
the machine. Each docstring is what the statement claims; OBLIGATIONS.json names the rules it rests on. -/

section
open Sys2Proof Sys2Proof.Machine

/-- For every state: with nothing pending the step leaves the state as it is. If the oldest request decodes to i, the
step is exec of i on the state without that request. If no row matches the request, the step is offTable of it; for
a host transaction whose operand is not the one its command takes that is X20 with its code and no other change.
Every step ends in a next state. The inbox is the model's own (log entry 2), and what a request that no row matches
does is the model's choice (log entry 9). -/
def Obligations.StepRunsTheDecodedRequest : Prop :=
  ∀ s : State,
    (s.inbox = [] → step s = .next s) ∧
    (∀ r rest i, s.inbox = r :: rest → s.decodeRequest r = .instr i → step s = exec i { s with inbox := rest }) ∧
    (∀ r rest e, s.inbox = r :: rest → s.decodeRequest r = .reject e → step s = offTable r { s with inbox := rest }) ∧
    (∀ code operand rest e, s.inbox = .host code operand :: rest → s.decodeRequest (.host code operand) = .reject e →
      s.mode ≠ .fatal → step s = .next { s with inbox := rest, events := s.events ++ [.exn (.x20 code)] }) ∧
    ∃ t, step s = .next t

/-- Words written out byte by byte from the layouts of the spec decode to the instructions they stand for: host codes,
CONFIG operands, a TS packet and bytes out of sync, a section header, two splice keys, two splice_insert bodies, the
splice_time forms, a splice descriptor, a PMT descriptor, an RTP header, a parity datagram. The FILTER, MAIN and
bit-reader rows, which have no word of their own, are selected by the slot's form, by CFG and by the call. -/
def Obligations.DecodedWordsAreTheirRows : Prop :=
  ∀ k : Keys,
    let zeros : Bytes := List.replicate 184 0#8
    let read : SpliceUnit := { srcPid := none, pcr := none, tableId := 0xFC#8
                               common := { syntaxIndicator := 0#1, privateIndicator := 0#1, reserved := 3#2, sectionLength := 0x011#12 }
                               protocolVersion := 0x01#8, encryptionAlgorithm := 5#6, ptsAdjustment := 0x123456789#33
                               cwIndex := 0xCC#8, tier := 0xABC#12, commandLength := 0xFED#12, body := [0x77#8] }
    let spliceWord : Byte → Byte → Bytes := fun e ty =>
      [0xFC#8, 0x30#8, 0x11#8, 0x01#8, e, 0x23#8, 0x45#8, 0x67#8, 0x89#8, 0xCC#8, 0xAB#8, 0xCF#8, 0xED#8, ty, 0x77#8]
    let routed : RouteUnit := { pid := 5#13, pusi := 0#1, cc := 3#4, pcr := none, payload := none }
    let rtpWord : Bytes := [0x80#8, 0x21#8, 0#8, 0x0A#8, 0#8, 0#8, 0#8, 0#8, 0x11#8, 0x22#8, 0x33#8, 0x44#8]
    let rtpRead : RtpHeader :=
      { marker := 0#1, payloadType := 33#7, seq := 10#16, timestamp := 0#32, ssrc := 0x11223344#32 }
    decode k (.host 0x00#8 []) = .instr .reset ∧
    decode k (.host 0x01#8 [0x0E#8]) = .instr (.config 0x0E#8) ∧
    decode k (.host 0x05#8 [0xAB#8]) = .instr (.dgramCol [0xAB#8]) ∧
    decode k (.host 0x09#8 []) = .instr (.hostIllegal 0x09#8 []) ∧
    decode k (.cfg 0x06#8) = .instr (.configIllegal 0x06#8) ∧
    decode k (.ts ([0x47#8, 0x5F#8, 0xFE#8, 0x9A#8] ++ zeros)) =
      .instr (.tsPayload { transportError := 0#1, pusi := 1#1, priority := 0#1, pid := 0x1FFE#13, scrambling := 2#2
                           cc := 10#4 } zeros) ∧
    decode k (.ts [0x46#8, 0x47#8]) = .instr (.tsNosync [0x46#8, 0x47#8]) ∧
    decode { k with form := .pcrWatch 7#13 } (.route routed) = .instr (.routePcrwatch 7#13 routed) ∧
    decode k (.sec none [0x02#8, 0xB0#8, 0x01#8, 0x77#8]) =
      .instr (.secPmt none { syntaxIndicator := 1#1, privateIndicator := 0#1, reserved := 3#2, sectionLength := 1#12 }
        [0x77#8]) ∧
    decode k (.splice none none (spliceWord 0x0B#8 0x06#8)) = .instr (.timeSignal read) ∧
    decode k (.splice none none (spliceWord 0x8B#8 0x06#8)) = .instr (.spliceEncrypted 0x06#8 read) ∧
    decode k (.insert none [0x12#8, 0x34#8, 0x56#8, 0x78#8, 0x7E#8, 0xE9#8]) =
      .instr (.insertProgramTimed none 1#1
        { eventId := 0x12345678#32, reserved := 0x7E#7, networkIndicator := 1#1, reserved2 := 9#4, rest := [] }) ∧
    decode k (.insert none [0x12#8, 0x34#8, 0x56#8, 0x78#8, 0xFE#8]) =
      .instr (.insertCancel none 0x12345678#32 0x7E#7 []) ∧
    decode k (.spliceTime none [0xFE#8, 0x73#8, 0x69#8, 0xC0#8, 0x2E#8]) =
      .instr (.spliceTimeSpecified none 0x3F#6 0#1 [0x73#8, 0x69#8, 0xC0#8, 0x2E#8]) ∧
    decode k (.spliceTime none [0x7F#8]) = .instr (.spliceTimeUnspecified none 0x7F#7 []) ∧
    decode k (.descriptor none [0x00#8, 0x01#8, 0x43#8]) = .instr (.spliceDescriptor none 0x00#8 0x01#8 [0x43#8]) ∧
    decode k (.pmtDescriptor 5#13 [0x05#8, 0x04#8, 0x43#8, 0x55#8, 0x45#8, 0x49#8]) =
      .instr (.pmtRegistrationCuei 5#13 4#8 []) ∧
    decode { k with cfg := 0x0A#8 } (.mainDgram rtpWord) = .instr (.mainRtp rtpWord) ∧
    decode k (.rtp .main rtpWord) = .instr (.rtpV2 .main rtpRead []) ∧
    decode k (.fec .row (rtpWord ++ [0x00#8, 0xCA#8, 0x12#8, 0x34#8, 0xA1#8, 0x01#8, 0x02#8, 0x03#8, 0x04#8, 0x05#8,
        0x06#8, 0x07#8, 0x5D#8, 0x08#8, 0x09#8, 0x0A#8, 0x77#8])) =
      .instr (.fecRow { rtp := rtpRead, snbase := 202#16, lenrec := 0x1234#16, extension := 1#1, ptRecovery := 0x21#7
                        mask := 0x010203#24, tsRecovery := 0x04050607#32, n := 0#1, d := 1#1, fecType := 3#3
                        index := 5#3, offset := 8#8, na := 9#8, snbaseExt := 10#8, payload := [0x77#8] }) ∧
    decode k (.brRead 64) = .instr (.brRead 64)

/-- For every well-formed instruction i and all keys that select it, the decoder reads the encoding of i as i: every bit
of every unit is kept. -/
def Obligations.DecodeOfEncodeIsTheInstruction : Prop :=
  ∀ (i : Instr) (k : Keys), i.wf = true → selects k i = true → decode k (encode i) = .instr i

/-- If the decoder reads a request as i, then i is well-formed, the keys select it, and encoding i gives back the
request, byte for byte. -/
def Obligations.EncodeOfDecodeIsTheRequest : Prop :=
  ∀ (k : Keys) (r : Request) (i : Instr), decode k r = .instr i → i.wf = true ∧ selects k i = true ∧ encode i = r

/-- In every state RESET (code 0x00) ends in a next state with MODE IDLE, FATAL_CODE 0, CFG 0, PKTBUF empty, every slot
Empty, every registry entry Absent, RTP_LAST, F_HI and F_NEXT none, F_STORE and F_PAR empty, STATUS 0x0000, and the
events already emitted unchanged. The power-on state has the same values. -/
def Obligations.ResetPutsEveryElementBack : Prop :=
  ∀ s : State, ∃ t, exec .reset s = .next t ∧ t.events = s.events ∧
    ∀ t' : State, t' = t ∨ t' = State.reset →
      t'.mode = .idle ∧ t'.fatalCode = 0#8 ∧ t'.cfg = 0#8 ∧ t'.pktbuf = [] ∧
        (∀ p, slotAt t' p = .empty) ∧ (∀ k, pcrAt t' k = .absent) ∧ t'.rtpLast = none ∧ t'.fHi = none ∧
          t'.fNext = none ∧ t'.fStore = [] ∧ t'.fPar = [] ∧ status t' = 0x0000#16

/-- CONFIG, its operand's fields read as path = cfg[1:0], fec = cfg[2], transport = cfg[3], cfg[7:4]: in IDLE with a
legal operand it stores CFG and sets MODE to the path; in any other mode but FATAL, and on any other operand,
X20(0x01) and no state change; in FATAL it is ignored (R370). -/
def Obligations.ConfigStoresALegalOperandInIdle : Prop :=
  ∀ (cfg : Byte) (s : State),
    let path := cfg.extractLsb' 0 2
    let fec := cfg.extractLsb' 2 1
    let transport := cfg.extractLsb' 3 1
    let refuse := s.mode ≠ .idle ∨ path = 0#2 ∨ cfg.extractLsb' 4 4 ≠ 0#4 ∨
      (path ≠ 2#2 ∧ (fec ≠ 0#1 ∨ transport ≠ 0#1)) ∨ (path = 2#2 ∧ fec = 1#1 ∧ transport = 0#1)
    (s.mode = .fatal → exec (.config cfg) s = .next s) ∧
    (s.mode ≠ .fatal → refuse → exec (.config cfg) s = .next { s with events := s.events ++ [.exn (.x20 0x01#8)] }) ∧
    (¬ refuse → exec (.config cfg) s =
      .next { s with cfg := cfg, mode := if path = 1#2 then .file else if path = 2#2 then .net else .sec })

/-- The five legal CONFIG rows, in IDLE, store their operand and set MODE; outside IDLE and FATAL they raise X20(0x01).
CONFIG.ILLEGAL raises X20(0x01) in every mode but FATAL and stores nothing. That a unit-level row is run by itself
as here is the model's choice (log entries 2 and 6). -/
def Obligations.ConfigRowsAreTheirOperands : Prop :=
  ∀ s : State,
    (s.mode = .idle →
      exec .configFile s = .next { s with cfg := 0x01#8, mode := .file } ∧
      exec .configNetRaw s = .next { s with cfg := 0x02#8, mode := .net } ∧
      exec .configSection s = .next { s with cfg := 0x03#8, mode := .sec } ∧
      exec .configNetRtp s = .next { s with cfg := 0x0A#8, mode := .net } ∧
      exec .configNetRtpFec s = .next { s with cfg := 0x0E#8, mode := .net }) ∧
    (s.mode ≠ .idle → s.mode ≠ .fatal →
      ∀ i ∈ [Instr.configFile, .configNetRaw, .configSection, .configNetRtp, .configNetRtpFec],
        exec i s = .next { s with events := s.events ++ [.exn (.x20 0x01#8)] }) ∧
    (s.mode ≠ .fatal → ∀ cfg,
      exec (.configIllegal cfg) s = .next { s with events := s.events ++ [.exn (.x20 0x01#8)] })

/-- Outside FATAL: a command code of 0x09 or above, a command not legal in the current mode by the mode table, and a
CONFIG with an operand that is not one of the five legal ones, append X20(code) and change nothing else. -/
def Obligations.IllegalCommandsChangeNothing : Prop :=
  ∀ s : State, s.mode ≠ .fatal →
    let refused : Byte → Answer := fun code => .next { s with events := s.events ++ [.exn (.x20 code)] }
    (∀ code operand, 9 ≤ code.toNat → exec (.hostIllegal code operand) s = refused code) ∧
    (s.mode ≠ .idle → ∀ cfg, exec (.config cfg) s = refused 0x01#8) ∧
    (∀ cfg, cfg ∉ [0x01#8, 0x02#8, 0x03#8, 0x0A#8, 0x0E#8] → exec (.config cfg) s = refused 0x01#8) ∧
    (s.mode ≠ .file → ∀ b, exec (.push b) s = refused 0x02#8) ∧
    (s.mode ≠ .file → exec .eof s = refused 0x03#8) ∧
    (s.mode ≠ .net → ∀ g, exec (.dgramMain g) s = refused 0x04#8) ∧
    (s.mode ≠ .net ∨ s.cfg.extractLsb' 2 1 = 0#1 → ∀ g, exec (.dgramCol g) s = refused 0x05#8) ∧
    (s.mode ≠ .net ∨ s.cfg.extractLsb' 2 1 = 0#1 → ∀ g, exec (.dgramRow g) s = refused 0x06#8) ∧
    (s.mode ≠ .sec → ∀ b, exec (.literalSection b) s = refused 0x07#8) ∧
    (s.mode ≠ .net → exec .rxerr s = refused 0x08#8)

/-- With MODE = FATAL every host command other than RESET ends in the same state: no event, no state change. -/
def Obligations.FatalIgnoresEveryCommandButReset : Prop :=
  ∀ (i : Instr) (s : State), (encode i).isHost = true → s.mode = .fatal → i ≠ .reset → exec i s = .next s

/-- For every instruction: the next state's MODE is the old one; or IDLE after RESET; or, from IDLE, FILE, NET or
SECTION by a CONFIG, or a CONFIG row, with the operand that selects it; or DONE from FILE by EOF or from SECTION by
SECTION; or FATAL with an empty PKTBUF: from FILE by PUSH with code 2, from NET by a DGRAM command with code 2 or by
RXERR with code 19, or, which is the model's choice (log entries 2 and 6), from any other mode by TS.NOSYNC, a MAIN
row, FEC.COL or FEC.ROW run by itself, with code 2. -/
def Obligations.ModeMovesOnlyAlongTheMachine : Prop :=
  ∀ (i : Instr) (s t : State), exec i s = .next t →
    t.mode = s.mode ∨ (t.mode = .idle ∧ i = .reset) ∨
    (s.mode = .idle ∧
      ((t.mode = .file ∧ i ∈ [Instr.config 0x01#8, .configFile]) ∨
        (t.mode = .net ∧ i ∈ [Instr.config 0x02#8, .config 0x0A#8, .config 0x0E#8, .configNetRaw, .configNetRtp,
          .configNetRtpFec]) ∨
        (t.mode = .sec ∧ i ∈ [Instr.config 0x03#8, .configSection]))) ∨
    (s.mode = .file ∧ t.mode = .done ∧ i = .eof) ∨
    (s.mode = .sec ∧ t.mode = .done ∧ ∃ b, i = .literalSection b) ∨
    (t.mode = .fatal ∧ t.pktbuf = [] ∧
      ((s.mode = .net ∧ i = .rxerr ∧ t.fatalCode = 19#8) ∨
        (t.fatalCode = 2#8 ∧
          ((s.mode = .file ∧ ∃ b, i = .push b) ∨
            (s.mode = .net ∧ ∃ g, i ∈ [Instr.dgramMain g, .dgramCol g, .dgramRow g]) ∨
            (s.mode ≠ .fatal ∧
              ((∃ b, i ∈ [Instr.tsNosync b, .mainRaw b, .mainRtp b, .mainRtpFec b]) ∨
                ∃ u, i ∈ [Instr.fecCol u, .fecRow u]))))))

/-- Any exception but X02 and X19 appends its event and changes nothing else; X02 and X19 also set FATAL_CODE to 2 or
19, MODE to FATAL and PKTBUF to empty, everything else keeping its value, and RXERR in NET takes X19. STATUS is MODE
in bits 2 to 0 and FATAL_CODE in bits 15 to 8: 0x0000 to 0x0004 by mode with code 0, 0x0207 after X02, 0x1307 after
X19. -/
def Obligations.ExceptionEntryAndStatus : Prop :=
  ∀ (x : Exn) (s : State),
    let fatal := fun (y : Exn) (code : BitVec 8) =>
      { s with events := s.events ++ [.exn y], fatalCode := code, mode := .fatal, pktbuf := [] }
    (x ≠ .x02 → x ≠ .x19 → raise x s = { s with events := s.events ++ [.exn x] }) ∧
    raise .x02 s = fatal .x02 2#8 ∧ raise .x19 s = fatal .x19 19#8 ∧
    (s.mode = .net → exec .rxerr s = .next (fatal .x19 19#8)) ∧
    status (raise .x02 s) = 0x0207#16 ∧ status (raise .x19 s) = 0x1307#16 ∧
    (s.fatalCode = 0#8 →
      (s.mode = .idle → status s = 0x0000#16) ∧ (s.mode = .file → status s = 0x0001#16) ∧
      (s.mode = .net → status s = 0x0002#16) ∧ (s.mode = .sec → status s = 0x0003#16) ∧
      (s.mode = .done → status s = 0x0004#16))

/-- In every state: if CFG is an operand that goes with MODE, FATAL_CODE is 0 outside FATAL and 2 or 19 in it, PKTBUF is
empty in FATAL, and the bit cursor is inside its buffer, then the next state of any step is such a state again. -/
def Obligations.ControlRegistersStayLegal : Prop :=
  ∀ s t : State, ControlInv s → CursorInv s → step s = .next t → ControlInv t ∧ CursorInv t

/-- For every instruction that ends in a next state: the events are the old ones with events appended, none by RESET;
the parameters of R10 and the pending requests are as before (log entries 1 and 2); CFG is as before unless it is
RESET or a CONFIG row; and unless it is RESET, an entry of PCRREG that is not Absent is not Absent after it. -/
def Obligations.InstructionsKeepHistoryAndConfiguration : Prop :=
  ∀ (i : Instr) (s t : State), exec i s = .next t →
    (∃ es, t.events = s.events ++ es) ∧ (i = .reset → t.events = s.events) ∧
    t.params = s.params ∧ t.inbox = s.inbox ∧
    (i ∉ [Instr.reset, .configFile, .configNetRaw, .configSection, .configNetRtp, .configNetRtpFec] →
      (∀ c, i ≠ .config c) → t.cfg = s.cfg) ∧
    (i ≠ .reset → ∀ k, pcrAt s k ≠ .absent → pcrAt t k ≠ .absent)

/-- If FT, PCRREG and F_STORE are listed by strictly rising key inside their index spaces, with no entry at its default
value, then so they are after any step. The form is the model's (log entry 3). -/
def Obligations.TablesStayCanonical : Prop :=
  ∀ s t : State, Memory.wf s = true → step s = .next t → Memory.wf t = true

/-- If every section filter is idle, or holds 1 or 2 bytes, or holds at least 3 bytes of a section of legal declared
length that is not yet complete, then so does every section filter after any step. -/
def Obligations.PartialSectionsStayShort : Prop :=
  ∀ s t : State, ReasmInv s → step s = .next t → ReasmInv t

/-- If only PID 0 holds a Pat filter, every Scte35 filter holds its own PID, and no Scte35 or PcrWatch filter names an
Absent registry entry, then so it is after any step. -/
def Obligations.FiltersStayConsistent : Prop :=
  ∀ s t : State, FilterInv s → step s = .next t → FilterInv t

/-- If the parameters meet R10, F_HI and F_NEXT are both none (with an empty F_STORE) or both some, every stored number
is inside the retention window behind F_HI, and F_PAR holds at most FEC_PAR_CAP well-formed records, then so it is
after any step. -/
def Obligations.FecWindowIsKept : Prop :=
  ∀ s t : State, FecInv s → step s = .next t → FecInv t

/-- If the FEC window invariant holds and, outside FATAL, the FEC state is a fixed point (no record dead, unneeded or
usable; the next number neither stored nor past its deadline), then after any step the FEC state is again a fixed
point or the device is FATAL. -/
def Obligations.FecIsSettledBetweenTransactions : Prop :=
  ∀ s t : State, FecInv s → (s.mode ≠ .fatal → fecSettled s) → step s = .next t → (t.mode ≠ .fatal → fecSettled t)

/-- If PKTBUF holds at most 187 bytes when its head is the sync byte and at most RESYNC_WINDOW + 188 otherwise, and the
next request is a host transaction, then so it is after the step. -/
def Obligations.PktbufStaysBounded : Prop :=
  ∀ s t : State, PktbufInv s → HostNext s → step s = .next t → PktbufInv t

/-- The reset state meets the table, reassembler, filter, control, FEC, cursor and PKTBUF invariants, and its FEC state
is a fixed point. The parameters in it are the vector values (log entry 1), which meet the constraints of R10. -/
def Obligations.InvariantsHoldAtReset : Prop :=
  Memory.wf State.reset = true ∧ ReasmInv State.reset ∧ FilterInv State.reset ∧ ControlInv State.reset ∧
    FecInv State.reset ∧ fecSettled State.reset ∧ CursorInv State.reset ∧ PktbufInv State.reset

/-- For each adaptation_field_control, with MODE FILE and PKTBUF empty, PUSH of the 188 bytes of the packet ends in the
state in which the TS row of that packet ends. That a unit-level row is run by itself as here is the model's choice
(log entries 2 and 6). -/
def Obligations.PushOfOnePacketIsItsRow : Prop :=
  ∀ (h : TsHeader) (body : Bytes) (s : State), s.mode = .file → s.pktbuf = [] → body.length = 184 →
    (∃ t, exec (.push (packetBytes h 1#2 body)) s = .next t ∧ exec (.tsPayload h body) s = .next t) ∧
    (∃ t, exec (.push (packetBytes h 2#2 body)) s = .next t ∧ exec (.tsAdapt h body) s = .next t) ∧
    (∃ t, exec (.push (packetBytes h 3#2 body)) s = .next t ∧ exec (.tsAdaptPayload h body) s = .next t) ∧
    (∃ t, exec (.push (packetBytes h 0#2 body)) s = .next t ∧ exec (.tsAfcReserved h body) s = .next t)

/-- Where they are legal, PUSH, DGRAM.MAIN in raw UDP, MAIN.RAW and TS.NOSYNC end in a next state that keeps the
parameters, CFG, RTP_LAST, the FEC state, the reader, its result and the inbox, appends events only, and either
keeps MODE and FATAL_CODE or is FATAL with code 2 and an empty PKTBUF. That a unit-level row is run by itself as
here is the model's choice (log entries 2, 6, 14 and 15). -/
def Obligations.PushFrame : Prop :=
  ∀ (b : Bytes) (s : State),
    let completes := fun (i : Instr) => ∃ t, exec i s = .next t ∧ demuxFrame s t ∧ eventsGrow s t ∧
      (t.mode = s.mode ∧ t.fatalCode = s.fatalCode ∨ t.mode = .fatal ∧ t.fatalCode = 2#8 ∧ t.pktbuf = [])
    (s.mode = .file → completes (.push b)) ∧
    (s.mode = .net → s.cfg = 0x02#8 → completes (.dgramMain b)) ∧
    (s.mode ≠ .fatal → completes (.mainRaw b)) ∧
    (s.mode ≠ .fatal → completes (.tsNosync b))

/-- In FILE, for any list of at least one chunk: pushing the chunks one after another ends in the state, events
included, in which one PUSH of their concatenation ends. The list of pending pushes is the model's inbox (log entry
2). -/
def Obligations.ChunksDoNotMatter : Prop :=
  ∀ (c : Bytes) (cs : List Bytes) (s : State), s.mode = .file →
    Host.Core.run Sys2Proof.core (cs.length + 1)
        { s with inbox := (c :: cs).map fun b => .host 0x02#8 b } =
      Host.Core.run Sys2Proof.core 1 { s with inbox := [.host 0x02#8 ((c :: cs).flatten)] }

/-- In FILE, EOF sets MODE to DONE and empties PKTBUF; if it held bytes, X03 with their number is appended first;
nothing else changes. -/
def Obligations.EofReportsTheRestAndEndsTheRun : Prop :=
  ∀ s : State, s.mode = .file → exec .eof s = .next { s with
    pktbuf := [], mode := .done
    events := s.events ++ if s.pktbuf.length = 0 then [] else [.exn (.x03 s.pktbuf.length)] }

/-- For bytes whose first is not the sync byte, onto an empty PKTBUF outside FATAL: if an offset k in 1..RESYNC_WINDOW
has sync at k and k+188 and no lesser one has or is undecided, X01(k) and k bytes dropped; if every offset of the
window is refuted by bytes present, X02 and FATAL; otherwise nothing but the buffering, and at most RESYNC_WINDOW +
188 bytes wait. TS.NOSYNC ends so; PUSH in FILE ends, where an offset is confirmed, as PUSH of the bytes from it on
from the state with X01(k) appended, and in the other two cases as TS.NOSYNC does. That a unit-level row is run by
itself as here is the model's choice (log entries 2, 6 and 14). -/
def Obligations.HuntTakesTheLeastConfirmedOffset : Prop :=
  ∀ (b : Bytes) (s : State), s.mode ≠ .fatal → s.pktbuf = [] → b ≠ [] → b.head? ≠ some 0x47#8 →
    let refuted := fun (k : Nat) => (∃ c, b[k]? = some c ∧ c ≠ 0x47#8) ∨
      (b[k]? = some 0x47#8 ∧ ∃ c, b[k + 188]? = some c ∧ c ≠ 0x47#8)
    let confirmed := fun (k : Nat) => b[k]? = some 0x47#8 ∧ b[k + 188]? = some 0x47#8
    let w := s.params.resyncWindow
    let ends := fun (t : State) => exec (.tsNosync b) s = .next t ∧ (s.mode = .file → exec (.push b) s = .next t)
    (∀ k, 1 ≤ k → k ≤ w → confirmed k → (∀ j, 1 ≤ j → j < k → refuted j) →
      exec (.tsNosync b) s = .next { s with pktbuf := b.drop k, events := s.events ++ [.exn (.x01 k)] } ∧
      (s.mode = .file → ∃ t, exec (.push b) s = .next t ∧
        exec (.push (b.drop k)) { s with events := s.events ++ [.exn (.x01 k)] } = .next t)) ∧
    ((∀ k, 1 ≤ k → k ≤ w → refuted k) →
      ends { s with pktbuf := [], events := s.events ++ [.exn .x02], fatalCode := 2#8, mode := .fatal }) ∧
    (∀ k, 1 ≤ k → k ≤ w → ¬ confirmed k → ¬ refuted k → (∀ j, 1 ≤ j → j < k → refuted j) →
      ends { s with pktbuf := b } ∧ b.length ≤ w + 188)

/-- Outside FATAL, with n the adaptation_field_length and the flags and PCR read at their positions: TS.PAYLOAD routes
the 184 bytes without a PCR; TS.ADAPT routes no payload, TS.ADAPT.PAYLOAD the bytes after the field, each with the
PCR iff n >= 1 and PCR_flag; n over 183 (182), or PCR_flag with n under 7, and adaptation_field_control 00 append
X04(pid) and change nothing else. The routed packet runs the FILTER row of the PID's slot. That a unit-level row is
run by itself as here is the model's choice (log entries 2 and 6). -/
def Obligations.PacketsAreRoutedByTheirFields : Prop :=
  ∀ (h : TsHeader) (n flags p0 p1 p2 p3 p4 p5 : Byte) (rest : Bytes) (s : State), s.mode ≠ .fatal →
    let body := n :: flags :: p0 :: p1 :: p2 :: p3 :: p4 :: p5 :: rest
    let malformed : Answer := .next { s with events := s.events ++ [.exn (.x04 h.pid)] }
    let routed := fun (pcr : Option Pcr) (payload : Option Bytes) (o : Answer) =>
      ∃ t, o = .next t ∧
        exec (routeRow (formAt s h.pid) { pid := h.pid, pusi := h.pusi, cc := h.cc, pcr := pcr, payload := payload }) s =
          .next t
    let hasPcr := 1 ≤ n.toNat ∧ flags.extractLsb' 4 1 = 1#1
    exec (.tsAfcReserved h body) s = malformed ∧
    routed none (some body) (exec (.tsPayload h body) s) ∧
    (183 < n.toNat ∨ (hasPcr ∧ n.toNat < 7) → exec (.tsAdapt h body) s = malformed) ∧
    (182 < n.toNat ∨ (hasPcr ∧ n.toNat < 7) → exec (.tsAdaptPayload h body) s = malformed) ∧
    (n.toNat ≤ 183 → ¬ hasPcr → routed none none (exec (.tsAdapt h body) s)) ∧
    (n.toNat ≤ 182 → ¬ hasPcr → routed none (some (body.drop (1 + n.toNat))) (exec (.tsAdaptPayload h body) s)) ∧
    (∀ pcr : Pcr,
      pcr.base.toNat = p0.toNat * 2 ^ 25 + p1.toNat * 2 ^ 17 + p2.toNat * 2 ^ 9 + p3.toNat * 2 + p4.toNat / 128 →
      pcr.ext.toNat = p4.toNat % 2 * 256 + p5.toNat →
      (7 ≤ n.toNat → n.toNat ≤ 183 → hasPcr → routed (some pcr) none (exec (.tsAdapt h body) s)) ∧
      (7 ≤ n.toNat → n.toNat ≤ 182 → hasPcr →
        routed (some pcr) (some (body.drop (1 + n.toNat))) (exec (.tsAdaptPayload h body) s)))

/-- Outside FATAL. Where FT[pid] is Empty, ROUTE.EMPTY ends as ROUTE.PAT does on PID 0 from the state whose slot is a
fresh Pat, and on any other PID in the state whose slot is Null, all else unchanged. Where it is PcrWatch(key), a
packet with a PCR sets PCRREG[key] to it, all else unchanged; one without changes nothing. That a unit-level row is
run by itself as here is the model's choice (log entries 2, 5 and 6). -/
def Obligations.EmptyAndPcrWatchFilters : Prop :=
  ∀ (u : RouteUnit) (key : Pid) (s : State), s.mode ≠ .fatal →
    (formAt s u.pid = .empty → u.pid = 0#13 → ∃ t, exec (.routeEmpty u) s = .next t ∧
      exec (.routePat u) (setSlot u.pid (.pat { lastCc := none, acc := none }) s) = .next t) ∧
    (formAt s u.pid = .empty → u.pid ≠ 0#13 → ∃ t, exec (.routeEmpty u) s = .next t ∧ slotAt t u.pid = .null ∧
      (∀ p, p ≠ u.pid → slotAt t p = slotAt s p) ∧ t = { s with ft := t.ft }) ∧
    (formAt s u.pid = .pcrWatch key → ∀ p, u.pcr = some p → ∃ t, exec (.routePcrwatch key u) s = .next t ∧
      pcrAt t key = .seen p ∧ (∀ k, k ≠ key → pcrAt t k = pcrAt s k) ∧ t = { s with pcrreg := t.pcrreg }) ∧
    (formAt s u.pid = .pcrWatch key → u.pcr = none → exec (.routePcrwatch key u) s = .next s)

/-- ROUTE.NULL, whatever the packet's payload, PCR, PUSI and CC; ROUTE.PAT, ROUTE.PMT and ROUTE.SCTE35 on a packet
without payload; and SEC.STUFFING on a PID end in the same state, no event. That a unit-level row is run by itself
as here is the model's choice (log entries 2, 5, 6 and 13). -/
def Obligations.UnitsNobodyReadsChangeNothing : Prop :=
  ∀ (u : RouteUnit) (pn : BitVec 16) (e k : Pid) (rest : Bytes) (s : State),
    exec (.routeNull u) s = .next s ∧ exec (.secStuffing (some u.pid) rest) s = .next s ∧
    (u.payload = none →
      exec (.routePat u) s = .next s ∧ exec (.routePmt pn u) s = .next s ∧ exec (.routeScte35 e k u) s = .next s)

/-- Outside FATAL, on a section filter, a packet with payload ends with the filter idle and last_cc its counter, no
other slot and nothing else changed but the events. A gap is a counter other than the last plus one modulo 16. None
when PUSI is 0 and no section was open; X06(pid) when PUSI is 0, a section was open and there was a gap; X07(pid)
when PUSI is 1 and pointer_field exceeds the bytes after it, with X06(pid) before it if a section was open and there
was a gap; X05(pid, length) when a section that starts at the pointer, or one open with its header not yet complete,
declares more than 4093 bytes. That a unit-level row is run by itself as here is the model's choice (log entries 2,
5 and 6). -/
def Obligations.DroppedPayloadsLeaveTheFilterIdle : Prop :=
  ∀ (u : RouteUnit) (d : Bytes) (r : Reasm) (s : State), s.mode ≠ .fatal → u.payload = some d →
    reasmAt s u.pid = some r →
    let gap := ∃ c, r.lastCc = some c ∧ u.cc.toNat ≠ (c.toNat + 1) % 16
    let dropped := fun (es : List Event) => ∃ t, exec (routeRow (formAt s u.pid) u) s = .next t ∧
      reasmAt t u.pid = some { lastCc := some u.cc, acc := none } ∧ formAt t u.pid = formAt s u.pid ∧
      (∀ p, p ≠ u.pid → slotAt t p = slotAt s p) ∧ t = { s with ft := t.ft, events := s.events ++ es }
    (u.pusi = 0#1 → r.acc = none → dropped []) ∧
    (u.pusi = 0#1 → r.acc ≠ none → gap → dropped [.exn (.x06 u.pid)]) ∧
    (u.pusi = 1#1 → ∀ p rest, d = p :: rest → rest.length < p.toNat →
      (¬ (r.acc ≠ none ∧ gap) → dropped [.exn (.x07 u.pid)]) ∧
      (r.acc ≠ none → gap → dropped [.exn (.x06 u.pid), .exn (.x07 u.pid)])) ∧
    (∀ (tid h1 h0 : Byte) (rest : Bytes), 4093 < ((h1 ++ h0).extractLsb' 0 12).toNat →
      let long := [Event.exn (.x05 (some u.pid) ((h1 ++ h0).extractLsb' 0 12))]
      (∀ skip : Bytes, u.pusi = 1#1 → r.acc = none → skip.length < 256 → tid ≠ 0xFF#8 →
        d = BitVec.ofNat 8 skip.length :: (skip ++ tid :: h1 :: h0 :: rest) → dropped long) ∧
      (∀ a more : Bytes, u.pusi = 0#1 → ¬ gap → r.acc = some a → more ≠ [] → a ++ more = [tid, h1, h0] →
        d = more ++ rest → dropped long))

/-- Outside FATAL, on a section filter; a section is whole bytes of legal declared length, table_id not 0xFF, that
decode to the row i on this PID; a part is the beginning of one that does not complete it; idle means no section
open and last_cc the packet's counter. No section open, PUSI 1, whatever bytes the pointer_field skips: a section
then stuffing ends as i from idle; a section then any bytes ends as i and then those bytes in the same way, or as i
alone if i replaced the filter; stuffing or nothing ends idle; a part is left open, last_cc the counter, no event
and nothing else changed. A section open and no gap: bytes with PUSI 0 that do not complete it stay open with it,
those that complete it end as i, bytes after it ignored; a PUSI 1 tail that completes it ends as i and then, if the
filter stayed, as the bytes at the pointer; a tail that leaves it incomplete gives X23, one that completes a header
over 4093 X05, and then the bytes at the pointer are read. A section open and a gap: X06 and the packet is read as
from idle. That a unit-level row is run by itself as here is the model's choice (log entries 2, 5, 6 and 13). -/
def Obligations.WholeSectionInOnePacketCompletes : Prop :=
  ∀ (u : RouteUnit) (r : Reasm) (s : State), s.mode ≠ .fatal → reasmAt s u.pid = some r →
    let gap := ∃ c, r.lastCc = some c ∧ u.cc.toNat ≠ (c.toNat + 1) % 16
    let row := fun (pusi : BitVec 1) (d : Bytes) (s : State) =>
      exec (routeRow (formAt s u.pid) { u with pusi := pusi, payload := some d }) s
    let holds := fun (acc : Option Bytes) => setReasm u.pid { lastCc := some u.cc, acc := acc } s
    let idle := fun (es : List Event) => { holds none with events := s.events ++ es }
    let isPart := fun (part : Bytes) => Reasm.ok { lastCc := none, acc := some part } = true
    let pointer := fun (skip : Bytes) => BitVec.ofNat 8 skip.length :: skip
    let isSection := fun (i : Instr) (sec : Bytes) => ∃ tid h body, sec = sectionBytes tid h body ∧ tid ≠ 0xFF#8 ∧
      h.sectionLength.toNat = body.length ∧ body.length ≤ 4093 ∧ ∀ k, decode k (.sec (some u.pid) sec) = .instr i
    let thenRead := fun (i : Instr) (d more : Bytes) => ∃ t₁, exec i (idle []) = .next t₁ ∧
      (formAt t₁ u.pid = formAt s u.pid → ∃ t, row 1#1 d s = .next t ∧ row 1#1 (0x00#8 :: more) t₁ = .next t) ∧
      (formAt t₁ u.pid ≠ formAt s u.pid → row 1#1 d s = .next t₁)
    (r.acc = none → ∀ skip : Bytes, skip.length < 256 →
      (∀ i sec (n : Nat), isSection i sec → ∃ t,
        row 1#1 (pointer skip ++ sec ++ List.replicate n 0xFF#8) s = .next t ∧ exec i (idle []) = .next t) ∧
      (∀ i sec more, isSection i sec → thenRead i (pointer skip ++ sec ++ more) more) ∧
      (∀ more : Bytes, more.head? = none ∨ more.head? = some 0xFF#8 → row 1#1 (pointer skip ++ more) s = .next (idle [])) ∧
      (∀ part, isPart part → part.head? ≠ some 0xFF#8 → row 1#1 (pointer skip ++ part) s = .next (holds (some part)))) ∧
    (∀ a, r.acc = some a →
      (gap → ∀ d, ∃ t, row 1#1 d s = .next t ∧ row 1#1 d (idle [.exn (.x06 u.pid)]) = .next t) ∧
      (¬ gap → ∀ tail : Bytes, tail ≠ [] → isPart (a ++ tail) → row 0#1 tail s = .next (holds (some (a ++ tail)))) ∧
      (¬ gap → ∀ tail : Bytes, tail ≠ [] → ∀ i, isSection i (a ++ tail) → ∀ junk : Bytes,
        (∃ t, row 0#1 (tail ++ junk) s = .next t ∧ exec i (idle []) = .next t) ∧
        ((tail ++ junk).length < 256 → ∀ rest,
          thenRead i (pointer (tail ++ junk) ++ rest) rest)) ∧
      (¬ gap → ∀ tail rest : Bytes, tail.length < 256 → ∀ x,
        (isPart (a ++ tail) ∧ x = .x23 u.pid ∨
          ∃ tid h1 h0 more ignored, tail = more ++ ignored ∧ more ≠ [] ∧ a ++ more = [tid, h1, h0] ∧
            4093 < ((h1 ++ h0).extractLsb' 0 12).toNat ∧ x = .x05 (some u.pid) ((h1 ++ h0).extractLsb' 0 12)) →
        ∃ t, row 1#1 (pointer tail ++ rest) s = .next t ∧
          row 1#1 (0x00#8 :: rest) (idle [.exn x]) = .next t))

/-- Outside FATAL, on a section filter whose partial section is sound: a packet with payload d1, PUSI 0 or 1, and a PUSI
0 packet with the next counter and payload d2 end in the state in which one packet with payload d1 ++ d2 and the
first's PUSI ends, but for last_cc, which is the second counter; or in that state itself, where the filter was
replaced. With PUSI 1 this is said where the first packet has its pointer_field and leaves a section open and the
second does not run past its end. That a unit-level row is run by itself as here is the model's choice (log entries
2, 5 and 6). -/
def Obligations.SectionSplitOverPacketsIsWhole : Prop :=
  ∀ (pid : Pid) (pusi : BitVec 1) (cc : Cc) (d1 d2 : Bytes) (r : Reasm) (s : State), s.mode ≠ .fatal →
    reasmAt s pid = some r → r.ok = true →
    let packetOf := fun (pusi : BitVec 1) (c : Cc) (d : Bytes) =>
      exec (routeRow (formAt s pid) { pid := pid, pusi := pusi, cc := c, pcr := none, payload := some d })
    ∃ t1 t, packetOf pusi cc d1 s = .next t1 ∧ packetOf pusi cc (d1 ++ d2) s = .next t ∧
      (pusi = 0#1 ∨ (∃ r1 a, d1 ≠ [] ∧ reasmAt t1 pid = some r1 ∧ r1.acc = some a ∧
          ((a ++ d2).length < 3 ∨ (a ++ d2).length ≤ 3 + (sectionLength (a ++ d2)).toNat)) →
        (formAt t pid = formAt s pid → ∃ r', reasmAt t pid = some r' ∧
          packetOf 0#1 (cc + 1#4) d2 t1 = .next (setReasm pid { r' with lastCc := some (cc + 1#4) } t)) ∧
        (formAt t pid ≠ formAt s pid → packetOf 0#1 (cc + 1#4) d2 t1 = .next t))

/-- Outside FATAL, for a SEC row on the PID of a section filter: section_length over 4093 gives X05 with it; else a
section under 4 bytes or with a wrong CRC gives X08; else a table_id other than the filter's gives X09 with it; each
appends that one event and changes nothing else. That a unit-level row is run by itself as here is the model's
choice (log entries 2, 6 and 13). -/
def Obligations.SectionRowsCheckCrcThenTableId : Prop :=
  ∀ (pid : Pid) (tid : Byte) (h : SectionHeader) (body : Bytes) (i : Instr) (s : State), s.mode ≠ .fatal →
    (∀ k, decode k (.sec (some pid) (sectionBytes tid h body)) = .instr i) → tid ≠ 0xFF#8 →
    let sec := sectionBytes tid h body
    let bad := sec.length < 4 ∨ crc (sec.take (sec.length - 4)) ≠ u32be sec (sec.length - 4)
    ∀ want, (formAt s pid = .pat ∧ want = 0x00#8 ∨ (∃ pn, formAt s pid = .pmt pn) ∧ want = 0x02#8 ∨
        (∃ e k, formAt s pid = .scte35 e k) ∧ want = 0xFC#8) →
      (4093 < h.sectionLength.toNat →
        exec i s = .next { s with events := s.events ++ [.exn (.x05 (some pid) h.sectionLength)] }) ∧
      (h.sectionLength.toNat ≤ 4093 → bad → exec i s = .next { s with events := s.events ++ [.exn (.x08 (some pid))] }) ∧
      (h.sectionLength.toNat ≤ 4093 → ¬ bad → tid ≠ want →
        exec i s = .next { s with events := s.events ++ [.exn (.x09 (some pid) tid)] })

/-- Outside FATAL, on a Pat filter: a PAT with a good CRC whose entry area is whole ends in a next state where the slot
of every PID named by an entry with non-zero program_number is a fresh Pmt filter of the last such number, or as
before, partial section and last_cc included, if it was Pmt of that number and every entry naming the PID gives it;
every other slot is as before, and all other state is unchanged. A PAT whose entries do not fit appends X10(pid)
alone. That a unit-level row is run by itself as here is the model's choice (log entries 2, 6 and 13). -/
def Obligations.PatNamesPmtFilters : Prop :=
  ∀ (pid : Pid) (h : SectionHeader) (body : Bytes) (s : State), s.mode ≠ .fatal → formAt s pid = .pat →
    h.sectionLength.toNat ≤ 4093 →
    let sec := sectionBytes 0x00#8 h body
    crcGood sec = true →
    (sec.length < 12 ∨ (sec.length - 12) % 4 ≠ 0 →
      exec (.secPat (some pid) h body) s = .next { s with events := s.events ++ [.exn (.x10 pid)] }) ∧
    (12 ≤ sec.length → (sec.length - 12) % 4 = 0 →
      ∃ t, exec (.secPat (some pid) h body) s = .next t ∧ t = { s with ft := t.ft } ∧
        ∀ q,
          (patNamed sec q = [] → slotAt t q = slotAt s q) ∧
          ∀ pn, (patNamed sec q).getLast? = some pn →
            slotAt t q = if formAt s q = .pmt pn ∧ ∀ n ∈ patNamed sec q, n = pn then slotAt s q
              else .pmt pn { lastCc := none, acc := none })

/-- Outside FATAL, on a Pmt(pn) filter, SEC.PMT: a declared length over 4093 gives X05, else a bad CRC X08, else a
section that does not parse X10(pid), one for program n X22(pid, n), each that one event and nothing else. One that
parses to streams emits nothing, makes an Absent registry entry of this PID NoPcr and no other change there, and
each listed stream's slot becomes a fresh filter of its last classification, Scte35(epid, pid) if CUEI-registered,
else PcrWatch(pid), or stays as it was, partial section and last_cc included, if every listing of it gives the form
it had; slots it does not list stay. That a unit-level row is run by itself as here is the model's choice (log
entries 2, 6 and 13). -/
def Obligations.PmtIsAppliedWholeOrNotAtAll : Prop :=
  ∀ (pid : Pid) (pn : BitVec 16) (h : SectionHeader) (body : Bytes) (s : State), s.mode ≠ .fatal →
    formAt s pid = .pmt pn →
    let sec := sectionBytes 0x02#8 h body
    let only := fun (x : Exn) => exec (.secPmt (some pid) h body) s = .next { s with events := s.events ++ [.exn x] }
    let classified : Bool → Pid → Form := fun cuei q => if cuei then .scte35 q pid else .pcrWatch pid
    (4093 < h.sectionLength.toNat → only (.x05 (some pid) h.sectionLength)) ∧
    (h.sectionLength.toNat ≤ 4093 → crcGood sec = false → only (.x08 (some pid))) ∧
    (h.sectionLength.toNat ≤ 4093 → crcGood sec = true →
      (parsePmt pn sec = .bad → only (.x10 pid)) ∧
      (∀ n, parsePmt pn sec = .otherProgram n → only (.x22 pid n)) ∧
      (∀ es, parsePmt pn sec = .streams es →
        ∃ t, exec (.secPmt (some pid) h body) s = .next t ∧ t = { s with ft := t.ft, pcrreg := t.pcrreg } ∧
          (∀ k, pcrAt t k = if k = pid ∧ pcrAt s pid = .absent then .noPcr else pcrAt s k) ∧
          ∀ q,
            let listed := es.filter fun e => e.1 == q
            (listed = [] → slotAt t q = slotAt s q) ∧
            ∀ e, listed.getLast? = some e →
              slotAt t q = if formAt s q = classified e.2 q ∧ ∀ e' ∈ listed, e'.2 = e.2 then slotAt s q
                else if e.2 then .scte35 q pid { lastCc := none, acc := none } else .pcrWatch pid))

/-- For every program number, program-level descriptors and list of elementary streams that fit their length fields: the
section laid out by the spec parses to the streams in order, each marked CUEI-registered iff its own descriptors
hold a registration descriptor beginning CUEI; for another program number, whatever follows the streams, it is X22.
A section under 16 bytes, one whose program_info_length runs past the CRC, and one with fewer than 5 bytes for an
entry, an ES_info_length or a descriptor that runs past its container after any sound streams, is bad. -/
def Obligations.PmtLayoutIsReadBack : Prop :=
  ∀ (h : SectionHeader) (pn : BitVec 16) (head : BitVec 40) (info : Bytes) (es : List PmtStream) (c : BitVec 32),
    pmtFits info es →
    parsePmt pn (pmtBytes h pn head info es [] c) = .streams (es.map fun e => (e.pid, e.descriptors.any isCuei)) ∧
    (∀ tail, brokenStream tail → parsePmt pn (pmtBytes h pn head info es tail c) = .bad) ∧
    (∀ tail other, other ≠ pn → parsePmt other (pmtBytes h pn head info es tail c) = .otherProgram pn) ∧
    (∀ sec : Bytes, sec.length < 16 → parsePmt pn sec = .bad) ∧
    (∀ sec : Bytes, 16 ≤ sec.length → u16be sec 3 = pn →
      sec.length < 16 + ((byteAt sec 10 ++ byteAt sec 11).extractLsb' 0 12).toNat → parsePmt pn sec = .bad)

/-- For SEC.PAT and SEC.PMT on any PID: when the section has been taken once, taking it again changes neither the filter
table nor the registry. That a unit-level row is run by itself as here is the model's choice (log entries 2, 6 and
13). -/
def Obligations.TablesAreIdempotent : Prop :=
  ∀ (pid : Pid) (h : SectionHeader) (body : Bytes) (i : Instr) (s : State),
    i = .secPat (some pid) h body ∨ i = .secPmt (some pid) h body →
    ∃ t t', exec i s = .next t ∧ exec i t = .next t' ∧ t'.ft = t.ft ∧ t'.pcrreg = t.pcrreg

/-- For each of the eight SPLICE rows there are events, fixed by the unit alone and at least one, such that in every
state outside FATAL the row ends in that state with those events appended. For the seven rows that are not
encrypted, with a declared length that is not 0xFFF and exceeds the bytes after the header, they are X11 alone. That
a unit-level row is run by itself as here is the model's choice (log entries 2, 6 and 21). -/
def Obligations.SpliceRowsOnlyEmit : Prop :=
  ∀ (u : SpliceUnit) (ty : Byte),
    let unencrypted := [Instr.spliceNull u, .spliceSchedule u, .spliceInsert u, .timeSignal u, .bandwidthReservation u,
      .privateCommand u, .spliceReserved ty u]
    (∀ i ∈ Instr.spliceEncrypted ty u :: unencrypted,
      ∃ es, es ≠ [] ∧ ∀ s : State, s.mode ≠ .fatal → exec i s = .next { s with events := s.events ++ es }) ∧
    (u.commandLength ≠ 0xFFF#12 → u.body.length < u.commandLength.toNat → ∀ i ∈ unencrypted, ∀ s : State, s.mode ≠ .fatal →
      exec i s = .next { s with events := s.events ++ [.exn (.x11 u.srcPid)] })

/-- Outside FATAL, for a section of table_id 0xFC with a good CRC: SEC.SPLICE on a Scte35 filter ends as the row that
its CRC-stripped bytes decode to with the filter's PID and registry entry; SECTION in SECTION mode, trailing bytes
ignored, as the row with neither, MODE being DONE. Where fewer than 14 bytes are left without the CRC, both append
X11 alone. That a unit-level row is run by itself as here is the model's choice (log entries 2, 6, 13 and 21). -/
def Obligations.SectionPathRunsTheSpliceRow : Prop :=
  ∀ (pid e k : Pid) (h : SectionHeader) (body extra : Bytes) (s : State),
    h.sectionLength.toNat = body.length → body.length ≤ 4093 → crcGood (sectionBytes 0xFC#8 h body) = true →
    let buf := (sectionBytes 0xFC#8 h body).take (body.length - 1)
    (s.mode ≠ .fatal → formAt s pid = .scte35 e k →
      (buf.length < 14 →
        exec (.secSplice (some pid) h body) s = .next { s with events := s.events ++ [.exn (.x11 (some e))] }) ∧
      (∀ i, (∀ key, decode key (.splice (some e) (some (pcrAt s k)) buf) = .instr i) →
        ∃ t, exec (.secSplice (some pid) h body) s = .next t ∧ exec i s = .next t)) ∧
    (s.mode = .sec →
      (buf.length < 14 → exec (.literalSection (sectionBytes 0xFC#8 h body ++ extra)) s =
        .next { s with mode := .done, events := s.events ++ [.exn (.x11 none)] }) ∧
      (∀ i, (∀ key, decode key (.splice none none buf) = .instr i) →
        ∃ t, exec (.literalSection (sectionBytes 0xFC#8 h body ++ extra)) s = .next t ∧
          exec i { s with mode := .done } = .next t))

/-- In SECTION mode, SECTION of B sets MODE to DONE and appends exactly one event, and changes nothing else, when B is
under 3 bytes (X11), declares more than 4093 (X05), is shorter than declared (X11), has a table_id other than 0xFC
(X09), or a wrong CRC or no room for one (X08), tested in this order. Outside FATAL, the SEC row without a PID that
B decodes to, SEC.STUFFING among them, ends as SECTION of B does in SECTION mode, but that it leaves MODE: that such
a row makes these checks by itself is the model's choice (log entries 2, 6 and 13). -/
def Obligations.LiteralPathChecksInOrder : Prop :=
  ∀ (B : Bytes) (s : State),
    (s.mode = .sec →
      let sl : BitVec 12 := (byteAt B 1).extractLsb' 0 4 ++ byteAt B 2
      let sec := B.take (3 + sl.toNat)
      let only := fun (x : Exn) => exec (.literalSection B) s =
        .next { s with mode := .done, events := s.events ++ [.exn x] }
      (B.length < 3 → only (.x11 none)) ∧
      (3 ≤ B.length → 4093 < sl.toNat → only (.x05 none sl)) ∧
      (3 ≤ B.length → sl.toNat ≤ 4093 → B.length < 3 + sl.toNat → only (.x11 none)) ∧
      (3 + sl.toNat ≤ B.length → sl.toNat ≤ 4093 → byteAt B 0 ≠ 0xFC#8 → only (.x09 none (byteAt B 0))) ∧
      (3 + sl.toNat ≤ B.length → sl.toNat ≤ 4093 → byteAt B 0 = 0xFC#8 →
        (sec.length < 4 ∨ crc (sec.take (sec.length - 4)) ≠ u32be sec (sec.length - 4)) → only (.x08 none))) ∧
    (s.mode ≠ .fatal → ∀ i, (∀ k, decode k (.sec none B) = .instr i) →
      ∃ t, exec i s = .next t ∧ t.mode = s.mode ∧
        exec (.literalSection B) { s with mode := .sec } = .next { t with mode := .done })

/-- Outside FATAL, for every event id, every detail an encoding can hold, any reserved bits, and any bytes after the
layout: with splice_command_length correct or 0xFFF and a sound descriptor loop next, SPLICE_INSERT appends one
EV_SPLICE with the header as given, that value and the annotation of R283 and R284 (only in program mode, timed and
specified, with a PCR), then one EV_DESCRIPTOR per descriptor, and nothing else; with another declared length inside
the section, the same EV_SPLICE, X13, and the events of the loop at the declared end; with the body cut anywhere,
X11 alone. A cancelled body gives EV_SPLICE with the cancelled form and no annotation, no X13 whatever the declared
length, and the events of the loop at the declared end, or after its 5 bytes with 0xFFF; cut short, X11 alone. That
a unit-level row is run by itself as here is the model's choice (log entries 2, 6 and 21). -/
def Obligations.SpliceInsertRoundTrips : Prop :=
  ∀ (res : BitVec 7) (sif : BitVec 1) (eventId : BitVec 32) (d : InsertDetail) (ds : List (Byte × Bytes)) (rest : Bytes)
    (u : SpliceUnit) (s : State), s.mode ≠ .fatal → modeEncodable d.spliceMode = true →
    let layout := insertBody res sif eventId d
    let cancelled := insertCancelBytes eventId res
    let declared := u.commandLength.toNat
    let reported := fun (cmd : SpliceCommand) (ann : Option Int) (after : List Event) => exec (.spliceInsert u) s =
      .next { s with events := s.events ++ [.splice u.srcPid (unitHeader 0#1 0x05#8 u) cmd ann] ++ after }
    let cut := exec (.spliceInsert u) s = .next { s with events := s.events ++ [.exn (.x11 u.srcPid)] }
    (descriptorsFit ds → u.body = layout ++ descriptorBytes ds ++ rest →
      (declared = layout.length ∨ u.commandLength = 0xFFF#12) →
      ∃ ann, annotates u.pcr d.spliceMode ann ∧
        reported (.spliceInsert eventId (some d)) ann (ds.map (descriptorEvent u.srcPid))) ∧
    (u.body = layout ++ rest → u.commandLength ≠ 0xFFF#12 → declared ≠ layout.length → declared ≤ u.body.length →
      ∃ ann, annotates u.pcr d.spliceMode ann ∧
        reported (.spliceInsert eventId (some d)) ann
          (.exn (.x13 u.srcPid) :: descriptorLoop u.srcPid u.body declared)) ∧
    (∀ n, n < layout.length → u.body = layout.take n → cut) ∧
    (u.body = cancelled rest → u.commandLength ≠ 0xFFF#12 → declared ≤ u.body.length →
      reported (.spliceInsert eventId none) none (descriptorLoop u.srcPid u.body declared)) ∧
    (u.body = cancelled rest → u.commandLength = 0xFFF#12 →
      reported (.spliceInsert eventId none) none (descriptorLoop u.srcPid u.body 5)) ∧
    (∀ n, n < 5 → u.body = (cancelled rest).take n → cut)

/-- Outside FATAL: with a declared length L that is not 0xFFF and a body of L bytes before the descriptor loop, or with
0xFFF and the loop right after the header, both rows append EV_SPLICE with no annotation, then X13 iff L > 0 and not
0xFFF, then what the loop gives: its descriptors, whatever bytes follow it; X15 alone where there is no room for its
length or it is longer than the section; the descriptors before the fault and X15 where one runs past the loop. That
a unit-level row is run by itself as here is the model's choice (log entries 2, 6 and 21). -/
def Obligations.EmptyCommandsReportAnyBody : Prop :=
  ∀ (filler extra : Bytes) (ds : List (Byte × Bytes)) (u : SpliceUnit) (s : State), s.mode ≠ .fatal →
    (∀ d ∈ ds, d.2.length ≤ 255) →
    (u.commandLength ≠ 0xFFF#12 ∧ u.commandLength.toNat = filler.length ∨ u.commandLength = 0xFFF#12 ∧ filler = []) →
    let notice := if filler = [] then [] else [Event.exn (.x13 u.srcPid)]
    let both := fun (after : List Event) =>
      exec (.spliceNull u) s = .next { s with
        events := s.events ++ [.splice u.srcPid (unitHeader 0#1 0x00#8 u) .spliceNull none] ++ notice ++ after } ∧
      exec (.bandwidthReservation u) s = .next { s with
        events := s.events ++ [.splice u.srcPid (unitHeader 0#1 0x07#8 u) .bandwidthReservation none] ++ notice ++
          after }
    let surfaced := ds.map (descriptorEvent u.srcPid)
    let overrun := Event.exn (.x15 u.srcPid)
    (descriptorsFit ds → u.body = filler ++ descriptorBytes ds ++ extra → both surfaced) ∧
    (∀ loop : Bytes, loop.length < 2 → u.body = filler ++ loop → both [overrun]) ∧
    (∀ (len : BitVec 16) (loop : Bytes), loop.length < len.toNat → u.body = filler ++ be16 len ++ loop →
      both [overrun]) ∧
    (∀ (len : BitVec 16) (cut : Bytes), brokenEntry cut → len.toNat = (entryBytes ds ++ cut).length →
      u.body = filler ++ be16 len ++ entryBytes ds ++ cut ++ extra → both (surfaced ++ [overrun]))

/-- Outside FATAL: with the length declared, the three opaque rows append EV_SPLICE with exactly the declared bytes and
no annotation, X12 with the type for a reserved one, then the descriptors, bytes after the loop ignored. With no
room for the loop's length, or a loop longer than the section, they append X15 there; with a descriptor that runs
past the loop, the descriptors before it and X15. With 0xFFF the body is everything before the last two bytes, and
X15 follows if those are not zero or there are not two. SPLICE.ENCRYPTED appends one EV_SPLICE alone:
encrypted_packet 1, every byte after the header raw, no annotation, no descriptor. That a unit-level row is run by
itself as here is the model's choice (log entries 2, 6 and 21). -/
def Obligations.OpaqueCommandsKeepTheirBody : Prop :=
  ∀ (raw extra : Bytes) (ds : List (Byte × Bytes)) (tag : Byte) (u : SpliceUnit) (s : State), s.mode ≠ .fatal →
    let rows := fun (raw : Bytes) (after : List Event) =>
      exec (.spliceSchedule u) s = .next { s with
        events := s.events ++ [.splice u.srcPid (unitHeader 0#1 0x04#8 u) (.spliceSchedule raw) none] ++ after } ∧
      exec (.privateCommand u) s = .next { s with
        events := s.events ++ [.splice u.srcPid (unitHeader 0#1 0xFF#8 u) (.privateCommand raw) none] ++ after } ∧
      exec (.spliceReserved tag u) s = .next { s with
        events := s.events ++ [.splice u.srcPid (unitHeader 0#1 tag u) (.reserved tag raw) none,
          .exn (.x12 u.srcPid tag)] ++ after }
    let surfaced := ds.map (descriptorEvent u.srcPid)
    let overrun := Event.exn (.x15 u.srcPid)
    exec (.spliceEncrypted tag u) s =
      .next { s with events := s.events ++ [.splice u.srcPid (unitHeader 1#1 tag u) (.encrypted u.body) none] } ∧
    (u.commandLength ≠ 0xFFF#12 → u.commandLength.toNat = raw.length →
      (descriptorsFit ds → u.body = raw ++ descriptorBytes ds ++ extra → rows raw surfaced) ∧
      (∀ loop : Bytes, loop.length < 2 → u.body = raw ++ loop → rows raw [overrun]) ∧
      (∀ (len : BitVec 16) (loop : Bytes), loop.length < len.toNat → u.body = raw ++ be16 len ++ loop →
        rows raw [overrun]) ∧
      (∀ (len : BitVec 16) (cut : Bytes), (∀ d ∈ ds, d.2.length ≤ 255) → brokenEntry cut →
        len.toNat = (entryBytes ds ++ cut).length → u.body = raw ++ be16 len ++ entryBytes ds ++ cut ++ extra →
        rows raw (surfaced ++ [overrun]))) ∧
    (u.commandLength = 0xFFF#12 →
      (u.body = raw ++ [0#8, 0#8] → rows raw []) ∧
      (∀ a b : Byte, ¬ (a = 0#8 ∧ b = 0#8) → u.body = raw ++ [a, b] → rows raw [overrun]) ∧
      (u.body.length < 2 → rows [] [overrun]))

/-- Outside FATAL, for a time_signal with a specified pts_time or an unspecified one, any reserved bits and any bytes
after it: with splice_command_length correct or 0xFFF and a sound descriptor loop next, one EV_SPLICE with that
time, annotated, where the time is specified and the registry entry has a PCR of base b, with the one signed number
between -2^32 and 2^32 - 1 congruent to pts - b modulo 2^33, and otherwise not, then its descriptors; with another
declared length inside the section, the same EV_SPLICE, X13, and the events of the loop at the declared end; with
the body cut anywhere, X11 alone. Neither the PCR extension nor pts_adjustment matters. That a unit-level row is run
by itself as here is the model's choice (log entries 2, 6 and 21). -/
def Obligations.TimeSignalIsAnnotatedByTheSignedDistance : Prop :=
  ∀ (res : BitVec 7) (pts : BitVec 33) (ds : List (Byte × Bytes)) (rest : Bytes) (u : SpliceUnit) (s : State),
    s.mode ≠ .fatal → ∀ time ∈ [SpliceTime.timed (some pts), .timed none],
    let layout := timeBytes res time
    let declared := u.commandLength.toNat
    let reported := fun (ann : Option Int) (after : List Event) => exec (.timeSignal u) s = .next { s with
      events := s.events ++ [.splice u.srcPid (unitHeader 0#1 0x06#8 u) (.timeSignal time) ann] ++ after }
    (descriptorsFit ds → u.body = layout ++ descriptorBytes ds ++ rest →
      (declared = layout.length ∨ u.commandLength = 0xFFF#12) →
      ∃ ann, annotates u.pcr (.program time) ann ∧ reported ann (ds.map (descriptorEvent u.srcPid))) ∧
    (u.body = layout ++ rest → u.commandLength ≠ 0xFFF#12 → declared ≠ layout.length → declared ≤ u.body.length →
      ∃ ann, annotates u.pcr (.program time) ann ∧
        reported ann (.exn (.x13 u.srcPid) :: descriptorLoop u.srcPid u.body declared)) ∧
    (∀ n, n < layout.length → u.body = layout.take n →
      exec (.timeSignal u) s = .next { s with events := s.events ++ [.exn (.x11 u.srcPid)] })

/-- Outside FATAL, with any bytes after the body: INSERT.CANCEL answers the cancelled value with the cursor at bit 40;
the four other forms, selected by program_splice_flag and splice_immediate_flag, answer the value with the cursor at
the end of its layout; INSERT.DURATION answers the break duration. No event. With the body cut anywhere after the
flags, the four forms append X11, as INSERT.DURATION does where the cut falls before the end of the break duration;
the reader is then empty and there is no answer. The answer and the reader are kept in `result` and `br` (log entry
8). That a unit-level row is run by itself as here is the model's choice (log entries 2, 6, 8 and 12). -/
def Obligations.InsertRowsParseTheirLayout : Prop :=
  ∀ (src : Option Pid) (res : BitVec 7) (sif : BitVec 1) (eventId : BitVec 32) (d : InsertDetail) (tail : Bytes)
    (s : State), s.mode ≠ .fatal → modeEncodable d.spliceMode = true →
    let imm := immediateFlag sif d.spliceMode
    let unitWith := fun (rest : Bytes) => ({
      eventId := eventId, reserved := res, networkIndicator := networkFlag d.networkIndicator
      reserved2 := res.extractLsb' 0 4, rest := rest } : InsertUnit)
    let buf := insertBody res sif eventId d ++ tail
    let df := durationFlag d.duration
    let formEnds := fun (u : InsertUnit) (o : Answer) =>
      (modeFlag d.spliceMode = 1#1 → imm = 0#1 → exec (.insertProgramTimed src df u) s = o) ∧
      (modeFlag d.spliceMode = 1#1 → imm = 1#1 → exec (.insertProgramImmediate src df u) s = o) ∧
      (modeFlag d.spliceMode = 0#1 → imm = 0#1 → exec (.insertComponentTimed src df u) s = o) ∧
      (modeFlag d.spliceMode = 0#1 → imm = 1#1 → exec (.insertComponentImmediate src df u) s = o)
    let durationEnds := fun (u : InsertUnit) (o : Answer) => exec (.insertDuration src (modeFlag d.spliceMode) imm u) s = o
    let short : Answer := .next { s with
      br := { buf := [], pos := 0 }, result := .none, events := s.events ++ [.exn (.x11 src)] }
    exec (.insertCancel src eventId res tail) s = .next { s with
      br := { buf := insertCancelBytes eventId res tail, pos := 40 }, result := .command (.spliceInsert eventId none) } ∧
    formEnds (unitWith (insertRest res d ++ tail)) (.next { s with
      br := { buf := buf, pos := 8 * (insertBody res sif eventId d).length }
      result := .command (.spliceInsert eventId (some d)) }) ∧
    (∀ dur, d.duration = some dur → durationEnds (unitWith (insertRest res d ++ tail)) (.next { s with
      br := { buf := buf, pos := 8 * ((insertBody res sif eventId d).length - 4) }, result := .duration dur })) ∧
    ∀ n, n < (insertRest res d).length →
      formEnds (unitWith ((insertRest res d).take n)) short ∧
      (d.duration ≠ none → n + 4 < (insertRest res d).length →
        durationEnds (unitWith ((insertRest res d).take n)) short)

/-- Outside FATAL: with time_specified_flag 1 and four bytes after the first, the row answers Timed(some pts), pts being
the last bit of the first byte then the four bytes, with the cursor at 40; with fewer bytes X11. With the flag 0 it
answers Timed(none) with the cursor at 8. Reserved bits make no difference. That a unit-level row is run by itself
as here is the model's choice (log entries 2, 6 and 8). -/
def Obligations.SpliceTimeFormsAreRead : Prop :=
  ∀ (src : Option Pid) (res : BitVec 6) (res7 : BitVec 7) (msb : BitVec 1) (b3 b2 b1 b0 : Byte) (rest : Bytes)
    (s : State), s.mode ≠ .fatal →
    exec (.spliceTimeSpecified src res msb (b3 :: b2 :: b1 :: b0 :: rest)) s = .next { s with
      br := { buf := (1#1 ++ res ++ msb) :: b3 :: b2 :: b1 :: b0 :: rest, pos := 40 }
      result := .time (.timed (some (msb ++ b3 ++ b2 ++ b1 ++ b0))) } ∧
    (rest.length < 4 → exec (.spliceTimeSpecified src res msb rest) s = .next { s with
      br := { buf := [], pos := 0 }, result := .none, events := s.events ++ [.exn (.x11 src)] }) ∧
    exec (.spliceTimeUnspecified src res7 rest) s = .next { s with
      br := { buf := (0#1 ++ res7) :: rest, pos := 8 }, result := .time (.timed none) }

/-- Outside FATAL: SPLICE_DESCRIPTOR whose length fits what the loop still holds appends EV_DESCRIPTOR with the tag and
exactly that many bytes, otherwise X15 alone. PMT.REGISTRATION.CUEI whose length fits answers that the stream is
CUEI-registered, otherwise X10(pid) alone; that the row run by itself leaves this answer in `result` is the model's
choice (log entry 8). That a unit-level row is run by itself as here is the model's choice (log entries 2, 6 and 8). -/
def Obligations.DescriptorRowsCheckTheirLoop : Prop :=
  ∀ (src : Option Pid) (pid : Pid) (tag len : Byte) (rest : Bytes) (s : State), s.mode ≠ .fatal →
    (len.toNat ≤ rest.length → exec (.spliceDescriptor src tag len rest) s =
      .next { s with events := s.events ++ [.descriptor src tag (rest.take len.toNat)] }) ∧
    (rest.length < len.toNat → exec (.spliceDescriptor src tag len rest) s =
      .next { s with events := s.events ++ [.exn (.x15 src)] }) ∧
    (len.toNat ≤ 4 + rest.length →
      exec (.pmtRegistrationCuei pid len rest) s = .next { s with result := .cueiRegistered }) ∧
    (4 + rest.length < len.toNat →
      exec (.pmtRegistrationCuei pid len rest) s = .next { s with events := s.events ++ [.exn (.x10 pid)] })

/-- For every section of at least 4 bytes: its last four bytes are the CRC of the rest iff the CRC register over the
whole section ends at 0; and appending the CRC of any bytes to them makes a good section. -/
def Obligations.CrcOfAGoodSectionIsZero : Prop :=
  (∀ sec : Bytes, 4 ≤ sec.length → (crcGood sec = true ↔ crc sec = 0#32)) ∧
    ∀ bs : Bytes, crcGood (bs ++ be32 (crc bs)) = true

/-- Outside FATAL: BR.READ(n) inside the buffer answers the number whose binary digits are the n bits from the cursor,
the first the most significant, and moves the cursor by n; past the end it answers underrun and moves nothing.
Nothing else changes. The answer is kept in `result` (log entry 8). That a unit-level row is run by itself as here
is the model's choice (log entries 2, 6 and 8). -/
def Obligations.BitReadsAreBigEndianFields : Prop :=
  ∀ (n : Fin 65) (s : State), s.mode ≠ .fatal →
    let total := 8 * s.br.buf.length
    (s.br.pos + n.val ≤ total → exec (.brRead n) s = .next { s with
      br := { buf := s.br.buf, pos := s.br.pos + n.val }
      result := .value (beNat s.br.buf / 2 ^ (total - s.br.pos - n.val) % 2 ^ n.val) }) ∧
    (total < s.br.pos + n.val → exec (.brRead n) s = .next { s with result := .underrun })

/-- Outside FATAL, with a + b at most 64 and inside the buffer: the two reads give x then y with x * 2^b + y the value
of the one read, and both ways leave the cursor at p + a + b. Reading 8 bits at a position that is a multiple of 8
gives that byte of the buffer. That a unit-level row is run by itself as here is the model's choice (log entries 2,
6 and 8). -/
def Obligations.SplitReadsComposeToOneRead : Prop :=
  ∀ (buf : Bytes) (p : Nat) (s : State), s.mode ≠ .fatal → s.br = { buf := buf, pos := p } →
    (∀ (a b : Nat) (h : a + b < 65), p + a + b ≤ 8 * buf.length →
      ∃ t₁ t₂ t x y, exec (.brRead ⟨a, by omega⟩) s = .next t₁ ∧ t₁.result = .value x ∧
        exec (.brRead ⟨b, by omega⟩) t₁ = .next t₂ ∧ t₂.result = .value y ∧
        exec (.brRead ⟨a + b, h⟩) s = .next t ∧ t.result = .value (x * 2 ^ b + y) ∧
        t₂.br = { buf := buf, pos := p + a + b } ∧ t.br = { buf := buf, pos := p + a + b }) ∧
    (p % 8 = 0 → p + 8 ≤ 8 * buf.length → ∃ t b, buf[p / 8]? = some b ∧
      exec (.brRead ⟨8, by omega⟩) s = .next t ∧ t.result = .value b.toNat)

/-- Outside FATAL: BR.INIT sets buffer and cursor; BR.SKIP(n) moves the cursor by n inside the buffer and otherwise is
an underrun that moves nothing; BR.POS answers the cursor and BR.ALIGNED whether it is a multiple of 8, both leaving
the reader. The answers are kept in `result` (log entry 8). That a unit-level row is run by itself as here is the
model's choice (log entries 2, 6 and 8). -/
def Obligations.BitReaderCalls : Prop :=
  ∀ (buf : Bytes) (p n : Nat) (s : State), s.mode ≠ .fatal →
    exec (.brInit buf p) s = .next { s with br := { buf := buf, pos := p } } ∧
    (s.br.pos + n ≤ 8 * s.br.buf.length →
      exec (.brSkip n) s = .next { s with br := { buf := s.br.buf, pos := s.br.pos + n }, result := .ok }) ∧
    (8 * s.br.buf.length < s.br.pos + n → exec (.brSkip n) s = .next { s with result := .underrun }) ∧
    exec .brPos s = .next { s with result := .position s.br.pos } ∧
    exec .brAligned s = .next { s with result := .aligned (decide (s.br.pos % 8 = 0)) }

/-- With CFG raw UDP in NET, DGRAM.MAIN ends as MAIN.RAW does; and MAIN.RAW in NET ends as PUSH of the same bytes ends
in FILE, the mode apart. RTP_LAST is not touched and no X16 or X17 is appended: the events are those of the push.
That a unit-level row is run by itself as here is the model's choice (log entries 2, 6 and 15). -/
def Obligations.RawDatagramIsAPush : Prop :=
  ∀ (g : Bytes) (s : State), s.mode = .net → s.cfg.extractLsb' 2 2 = 0#2 →
    (∃ t, exec (.dgramMain g) s = .next t ∧ exec (.mainRaw g) s = .next t ∧ t.rtpLast = s.rtpLast ∧
      exec (.push g) { s with mode := .file } =
        .next { t with mode := if t.mode = .fatal then .fatal else .file }) ∧
    (∀ t, exec (.mainRaw g) s = .next t → ∀ es, t.events = s.events ++ es →
      ∀ x, Event.exn x ∈ es → (∀ q, x ≠ .x16 q) ∧ (∀ a b, x ≠ .x17 a b)) ∧
    (s.pktbuf = [] → exec (.mainRaw []) s = .next s)

/-- Outside FATAL, for a datagram with a valid header: MAIN.RTP ends as MAIN.RAW of the payload ends from the state
where RTP_LAST is the number received and, if there was a last number and this is not its successor modulo 2^16,
X17(expected, got) has been appended. DGRAM.MAIN in NET with RTP and no FEC ends so too. That a unit-level row is
run by itself as here is the model's choice (log entries 2, 6 and 15). -/
def Obligations.RtpContinuityIsReportedThenPushed : Prop :=
  ∀ (h : RtpHeader) (payload : Bytes) (s : State), s.mode ≠ .fatal →
    let notice := match s.rtpLast with
      | none => []
      | some p => if h.seq.toNat = (p.toNat + 1) % 65536 then [] else
          [Event.exn (.x17 (BitVec.ofNat 16 ((p.toNat + 1) % 65536)) h.seq)]
    ∃ t, exec (.mainRaw payload) { s with events := s.events ++ notice, rtpLast := some h.seq } = .next t ∧
      exec (.mainRtp (rtpBytes h ++ payload)) s = .next t ∧
      (s.mode = .net → s.cfg = 0x0A#8 → exec (.dgramMain (rtpBytes h ++ payload)) s = .next t)

/-- For a datagram under 12 bytes or whose first byte is not 0x80 (version 2, no padding, no extension, CSRC count 0):
DGRAM.MAIN in NET with RTP, of legal size, MAIN.RTP, MAIN.RTP.FEC and RTP.MALFORMED on MAIN append X16(MAIN) and
change nothing else; RTP.V2 answers number and payload. That a unit-level row is run by itself as here is the
model's choice (log entries 2, 6, 8 and 15). -/
def Obligations.MalformedRtpOnTheMainPortIsDropped : Prop :=
  ∀ (g : Bytes) (s : State), s.mode ≠ .fatal →
    let dropped : Answer := .next { s with events := s.events ++ [.exn (.x16 .main)] }
    let bad := g.length < 12 ∨ ∃ b, g.head? = some b ∧
      (b.extractLsb' 6 2 ≠ 2#2 ∨ b.extractLsb' 5 1 ≠ 0#1 ∨ b.extractLsb' 4 1 ≠ 0#1 ∨ b.extractLsb' 0 4 ≠ 0#4)
    (bad → exec (.mainRtp g) s = dropped ∧ exec (.mainRtpFec g) s = dropped ∧
      (s.mode = .net → s.cfg.extractLsb' 3 1 = 1#1 →
        s.cfg.extractLsb' 2 1 = 0#1 ∨ g.length ≤ s.params.fecSlotBytes → exec (.dgramMain g) s = dropped)) ∧
    exec (.rtpMalformed .main g) s = dropped ∧
    (∀ (port : Port) (h : RtpHeader) (payload : Bytes), exec (.rtpV2 port h payload) s =
      .next { s with result := .rtp h.seq payload })

/-- In NET with FEC, a datagram longer than FEC_SLOT_BYTES on MAIN, COL or ROW appends X21(port, length) and changes
nothing else. -/
def Obligations.OversizeDatagramIsRefused : Prop :=
  ∀ (g : Bytes) (s : State), s.mode = .net → s.cfg.extractLsb' 2 1 = 1#1 → s.params.fecSlotBytes < g.length →
    let refused : Port → Answer := fun port => .next { s with events := s.events ++ [.exn (.x21 port g.length)] }
    exec (.dgramMain g) s = refused .main ∧ exec (.dgramCol g) s = refused .col ∧ exec (.dgramRow g) s = refused .row

/-- In NET with FEC and of legal size: DGRAM.COL and DGRAM.ROW of the bytes of a parity unit with offset and NA not 0
end as FEC.COL and FEC.ROW end; a datagram with a bad RTP header, under 28 bytes, or with offset or NA 0 appends
X18(port) and changes nothing else, as FEC.MALFORMED and RTP.MALFORMED on that port do. That a unit-level row is run
by itself as here is the model's choice (log entries 2, 6 and 15). -/
def Obligations.ParityDatagramsAreCheckedThenTaken : Prop :=
  ∀ (u : FecUnit) (g : Bytes) (s : State), s.mode = .net → s.cfg.extractLsb' 2 1 = 1#1 →
    let dropped : Port → Answer := fun port => .next { s with events := s.events ++ [.exn (.x18 port)] }
    ((fecBytes u).length ≤ s.params.fecSlotBytes → u.offset ≠ 0#8 → u.na ≠ 0#8 →
      (∃ t, exec (.dgramCol (fecBytes u)) s = .next t ∧ exec (.fecCol u) s = .next t) ∧
      (∃ t, exec (.dgramRow (fecBytes u)) s = .next t ∧ exec (.fecRow u) s = .next t)) ∧
    (g.length ≤ s.params.fecSlotBytes →
      g.length < 28 ∨ g.head? ≠ some 0x80#8 ∨ g[25]? = some 0#8 ∨ g[26]? = some 0#8 →
      exec (.dgramCol g) s = dropped .col ∧ exec (.dgramRow g) s = dropped .row) ∧
    exec (.fecMalformed .col g) s = dropped .col ∧ exec (.fecMalformed .row g) s = dropped .row ∧
    exec (.rtpMalformed .col g) s = dropped .col ∧ exec (.rtpMalformed .row g) s = dropped .row

/-- Outside FATAL. With no parity waiting, the FEC window empty and the parameters of R10: MAIN.RTP.FEC of number m ends
as MAIN.RTP of it ends from the state with F_HI = m, F_NEXT = m + 1 and F_STORE holding its payload alone;
DGRAM.MAIN in NET with FEC, of legal size, does the same. With no parity waiting, the FEC invariant, F_HI and F_NEXT
present, and m not stored, newer than F_HI or inside the retention window: m enters F_STORE, F_HI moves to it if it
is newer and what leaves the window is evicted, and then, from F_NEXT on, stored numbers are handed to RTP.DELIVER
in order and numbers FEC_DEADLINE behind F_HI are skipped, until a number is neither or a push is fatal; nothing
else changes. With parity waiting, the FEC state settled, the waiting records and F_STORE made from one set of
original payloads, m's among them, and no number concerned so far ahead that the circular comparison would turn: m
enters the window in the same way, then the waiting records rebuild originals alone, no X24 and no other event,
until each record left has two members missing and none behind the window and each record gone has every member
stored or one behind the window; then delivery as before. That a unit-level row is run by itself as here is the
model's choice (log entries 2, 6 and 15). -/
def Obligations.FirstMediaPacketStartsDelivery : Prop :=
  ∀ (h : RtpHeader) (payload : Bytes) (s : State), s.mode ≠ .fatal →
    (s.fPar = [] → s.params.Valid → s.fHi = none → s.fNext = none → s.fStore = [] →
      ∃ t, exec (.mainRtpFec (rtpBytes h ++ payload)) s = .next t ∧
        exec (.mainRtp (rtpBytes h ++ payload))
          { s with fHi := some h.seq, fNext := some (h.seq + 1#16), fStore := [(h.seq.toNat, payload)] } = .next t ∧
        (s.mode = .net → s.cfg = 0x0E#8 → 12 + payload.length ≤ s.params.fecSlotBytes →
          exec (.dgramMain (rtpBytes h ++ payload)) s = .next t)) ∧
    (∀ hi q, s.fPar = [] → FecInv s → s.fHi = some hi → s.fNext = some q → stored s h.seq = false →
      (0 < dist hi h.seq ∧ dist hi h.seq < 32768) ∨ dist h.seq hi < s.params.fecRetain →
      ∃ s' t, exec (.mainRtpFec (rtpBytes h ++ payload)) s = .next t ∧
        s' = { s with fHi := s'.fHi, fStore := s'.fStore } ∧ windowWith hi h.seq payload s s' ∧
        ∀ hi', s'.fHi = some hi' → deliversFrom hi' q s' t) ∧
    (∀ (orig : SeqNum → Bytes) hi q, FecInv s → fecSettled s → s.fHi = some hi → s.fNext = some q →
      stored s h.seq = false → (0 < dist hi h.seq ∧ dist hi h.seq < 32768) ∨ dist h.seq hi < s.params.fecRetain →
      payload = orig h.seq → fecFrom orig s.fPar s → noTurn hi h.seq s → (∀ r ∈ s.fPar, ∀ o ∈ recGroup r, noTurn hi o s) →
      ∃ s' s'' t, exec (.mainRtpFec (rtpBytes h ++ payload)) s = .next t ∧
        s' = { s with fHi := s'.fHi, fStore := s'.fStore } ∧ windowWith hi h.seq payload s s' ∧
        (∀ hi', s'.fHi = some hi' → recoversFrom orig hi' s.fPar s' s'') ∧
        ∀ hi', s''.fHi = some hi' → deliversFrom hi' q s'' t)

/-- Outside FATAL, with the FEC invariant: MAIN.RTP.FEC of a number that is not newer than F_HI and is FEC_RETAIN or
more behind it, or that F_STORE holds, ends in the same state, no event. That a unit-level row is run by itself as
here is the model's choice (log entries 2, 6 and 15). -/
def Obligations.OldAndDuplicateMediaAreDroppedSilently : Prop :=
  ∀ (h : RtpHeader) (payload : Bytes) (hi : SeqNum) (s : State), s.mode ≠ .fatal → FecInv s → s.fHi = some hi →
    ((s.params.fecRetain ≤ dist h.seq hi ∧ ¬ (0 < dist hi h.seq ∧ dist hi h.seq < 32768)) ∨
      (tableGet h.seq.toNat s.fStore).isSome = true) →
    exec (.mainRtpFec (rtpBytes h ++ payload)) s = .next s

/-- Outside FATAL, with the FEC invariant, for a parity unit with offset and NA not 0. With no other parity waiting:
when it carries the parity and length recovery of payloads of its members, F_STORE holds the payload of every member
but m, and m is inside the retention window or newer than F_HI, then FEC.COL and FEC.ROW put the original payload of
m into F_STORE, F_HI moving to m if it is newer and what leaves the window being evicted, use the record up, and
then, from F_NEXT on, stored numbers are handed to RTP.DELIVER in order and numbers FEC_DEADLINE behind F_HI are
skipped, until a number is neither or a push is fatal. Nothing else changes, and no X24 is among the events
appended. With other parity waiting, the FEC state settled, all the records and F_STORE made from one set of
original payloads, and no member so far ahead that the circular comparison would turn: the record joins the waiting
ones, the oldest giving way at FEC_PAR_CAP; then originals alone are rebuilt, no X24 and no other event, until each
record left has two members missing and none behind the window and each record gone has every member stored or one
behind the window; then delivery as before. That a unit-level row is run by itself as here is the model's choice
(log entries 2, 6 and 15). -/
def Obligations.ParityRebuildsTheOneLostPacket : Prop :=
  ∀ (u : FecUnit) (orig : SeqNum → Bytes) (hi q : SeqNum) (s : State), s.mode ≠ .fatal → FecInv s →
    s.fHi = some hi → s.fNext = some q → u.offset ≠ 0#8 → u.na ≠ 0#8 →
    (∀ m, s.fPar = [] → (∀ o ∈ fecGroup u, (orig o).length < 65536) →
      u.payload = parityPayload ((fecGroup u).map orig) → u.lenrec = parityLength ((fecGroup u).map orig) →
      m ∈ fecGroup u → stored s m = false →
      (0 < dist hi m ∧ dist hi m < 32768) ∨ dist m hi < s.params.fecRetain →
      (∀ o ∈ fecGroup u, o ≠ m → tableGet o.toNat s.fStore = some (orig o)) →
      ∀ i ∈ [Instr.fecCol u, .fecRow u], ∃ s' t es, exec i s = .next t ∧
        s' = { s with fHi := s'.fHi, fStore := s'.fStore } ∧ windowWith hi m (orig m) s s' ∧
        (∀ hi', s'.fHi = some hi' → deliversFrom hi' q s' t) ∧
        tableGet m.toNat t.fStore = some (orig m) ∧ t.fPar = [] ∧
        t.events = s.events ++ es ∧ ∀ p, Event.exn (.x24 p) ∉ es) ∧
    (fecSettled s → ∀ e ∈ [(Instr.fecCol u, Port.col), (Instr.fecRow u, Port.row)],
      let records := (if s.fPar.length < s.params.fecParCap then s.fPar else s.fPar.drop 1) ++ [recordOf e.2 u]
      fecFrom orig records s → (∀ r ∈ records, ∀ o ∈ recGroup r, noTurn hi o s) →
      ∃ s' t, exec e.1 s = .next t ∧ recoversFrom orig hi records s s' ∧
        ∀ hi', s'.fHi = some hi' → deliversFrom hi' q s' t)

/-- Outside FATAL, with the FEC invariant, for a parity unit with offset and NA not 0 (R322 refuses any other); at
FEC_PAR_CAP records the oldest leaves without an event. FEC.COL and FEC.ROW append the record and change nothing
else where no media has come, and where the FEC state is settled, none of its members has left the window (members
ahead of F_HI count as inside) and at least two are missing. Where it is settled and just one member is missing, but
another member is longer than the parity payload or the recovered length exceeds it, they append X24 with the port,
the record is gone, and nothing else changes. Where it is settled and no member is missing, or a member has left the
window, the record is gone without an event, and nothing else changes. That a unit-level row is run by itself as
here is the model's choice (log entries 2, 6 and 15). -/
def Obligations.TwoLossesAreNotRebuilt : Prop :=
  ∀ (u : FecUnit) (s : State), s.mode ≠ .fatal → FecInv s → u.offset ≠ 0#8 → u.na ≠ 0#8 →
    let waiting := if s.fPar.length < s.params.fecParCap then s.fPar else s.fPar.drop 1
    let kept : Port → Answer := fun port => .next { s with fPar := waiting ++ [recordOf port u] }
    let gone : Answer := .next { s with fPar := waiting }
    let failed : Port → Answer := fun port => .next { s with
      fPar := waiting, events := s.events ++ [.exn (.x24 port)] }
    (s.fHi = none → exec (.fecCol u) s = kept .col ∧ exec (.fecRow u) s = kept .row) ∧
    (∀ hi, fecSettled s → s.fHi = some hi →
      (∀ o ∈ fecGroup u, stored s o = true) ∨ (∃ o ∈ fecGroup u, leftWindow hi o s) →
      exec (.fecCol u) s = gone ∧ exec (.fecRow u) s = gone) ∧
    (∀ hi, fecSettled s → s.fHi = some hi →
      (∀ o ∈ fecGroup u, dist o hi < s.params.fecRetain ∨ 32768 ≤ dist o hi) →
      (∀ a b, a ∈ fecGroup u → b ∈ fecGroup u → a ≠ b → stored s a = false → stored s b = false →
        exec (.fecCol u) s = kept .col ∧ exec (.fecRow u) s = kept .row) ∧
      (∀ m (orig : SeqNum → Bytes), m ∈ fecGroup u → stored s m = false →
        (∀ o ∈ fecGroup u, o ≠ m → tableGet o.toNat s.fStore = some (orig o)) →
        ((∃ o ∈ fecGroup u, o ≠ m ∧ u.payload.length < (orig o).length) ∨
          u.payload.length < (u.lenrec ^^^ parityLength (((fecGroup u).filter fun o => o != m).map orig)).toNat) →
        exec (.fecCol u) s = failed .col ∧ exec (.fecRow u) s = failed .row))

/-- Outside FATAL, ROUTE.PAT, ROUTE.PMT and ROUTE.SCTE35 on the filter they name, with any payload, end in a next state
that keeps everything but FT, PCRREG and appended events, and, unless its filter was replaced, has last_cc set to
the packet's counter; on a Scte35 filter no other slot and no registry entry changes. SEC.SPLICE and SEC.OTHER on a
PID write neither table. That a unit-level row is run by itself as here is the model's choice (log entries 2, 5, 6
and 13). -/
def Obligations.SectionRowsCompleteWithTheirFrame : Prop :=
  ∀ (u : RouteUnit) (d : Bytes) (s : State), s.mode ≠ .fatal → u.payload = some d →
    (∀ i, (formAt s u.pid = .pat ∧ i = .routePat u) ∨ (∃ pn, formAt s u.pid = .pmt pn ∧ i = .routePmt pn u) ∨
        (∃ e k, formAt s u.pid = .scte35 e k ∧ i = .routeScte35 e k u) →
      ∃ t, exec i s = .next t ∧ (∃ es, t = { s with ft := t.ft, pcrreg := t.pcrreg, events := s.events ++ es }) ∧
        (formAt t u.pid = formAt s u.pid → ∃ r, reasmAt t u.pid = some r ∧ r.lastCc = some u.cc) ∧
        ((∃ e k, formAt s u.pid = .scte35 e k) →
          formAt t u.pid = formAt s u.pid ∧ t.pcrreg = s.pcrreg ∧ ∀ p, p ≠ u.pid → slotAt t p = slotAt s p)) ∧
    (∀ (h : SectionHeader) (body : Bytes) (tid : Byte), namedTableId tid = false →
      ∀ i ∈ [Instr.secSplice (some u.pid) h body, .secOther (some u.pid) tid h body],
        ∃ es, exec i s = .next { s with events := s.events ++ es })

end
end

