-- ==== Sys2Proof/Laws/State.lean ====
section
/-! SUPPORT. The small lemmas of the record updates: one per field per update, so that no later proof unfolds one. -/

namespace Sys2Proof.Machine

/-! ## emit, emitAll -/

@[simp] theorem emit_params (e : Event) (s : State) : (emit e s).params = s.params := rfl
@[simp] theorem emitAll_params (es : List Event) (s : State) : (emitAll es s).params = s.params := rfl
@[simp] theorem emit_mode (e : Event) (s : State) : (emit e s).mode = s.mode := rfl
@[simp] theorem emitAll_mode (es : List Event) (s : State) : (emitAll es s).mode = s.mode := rfl
@[simp] theorem emit_fatalCode (e : Event) (s : State) : (emit e s).fatalCode = s.fatalCode := rfl
@[simp] theorem emitAll_fatalCode (es : List Event) (s : State) : (emitAll es s).fatalCode = s.fatalCode := rfl
@[simp] theorem emit_cfg (e : Event) (s : State) : (emit e s).cfg = s.cfg := rfl
@[simp] theorem emitAll_cfg (es : List Event) (s : State) : (emitAll es s).cfg = s.cfg := rfl
@[simp] theorem emit_pktbuf (e : Event) (s : State) : (emit e s).pktbuf = s.pktbuf := rfl
@[simp] theorem emitAll_pktbuf (es : List Event) (s : State) : (emitAll es s).pktbuf = s.pktbuf := rfl
@[simp] theorem emit_ft (e : Event) (s : State) : (emit e s).ft = s.ft := rfl
@[simp] theorem emitAll_ft (es : List Event) (s : State) : (emitAll es s).ft = s.ft := rfl
@[simp] theorem emit_pcrreg (e : Event) (s : State) : (emit e s).pcrreg = s.pcrreg := rfl
@[simp] theorem emitAll_pcrreg (es : List Event) (s : State) : (emitAll es s).pcrreg = s.pcrreg := rfl
@[simp] theorem emit_rtpLast (e : Event) (s : State) : (emit e s).rtpLast = s.rtpLast := rfl
@[simp] theorem emitAll_rtpLast (es : List Event) (s : State) : (emitAll es s).rtpLast = s.rtpLast := rfl
@[simp] theorem emit_fHi (e : Event) (s : State) : (emit e s).fHi = s.fHi := rfl
@[simp] theorem emitAll_fHi (es : List Event) (s : State) : (emitAll es s).fHi = s.fHi := rfl
@[simp] theorem emit_fNext (e : Event) (s : State) : (emit e s).fNext = s.fNext := rfl
@[simp] theorem emitAll_fNext (es : List Event) (s : State) : (emitAll es s).fNext = s.fNext := rfl
@[simp] theorem emit_fStore (e : Event) (s : State) : (emit e s).fStore = s.fStore := rfl
@[simp] theorem emitAll_fStore (es : List Event) (s : State) : (emitAll es s).fStore = s.fStore := rfl
@[simp] theorem emit_fPar (e : Event) (s : State) : (emit e s).fPar = s.fPar := rfl
@[simp] theorem emitAll_fPar (es : List Event) (s : State) : (emitAll es s).fPar = s.fPar := rfl
@[simp] theorem emit_events (e : Event) (s : State) : (emit e s).events = s.events ++ [e] := rfl
@[simp] theorem emitAll_events (es : List Event) (s : State) : (emitAll es s).events = s.events ++ es := rfl
@[simp] theorem emit_br (e : Event) (s : State) : (emit e s).br = s.br := rfl
@[simp] theorem emitAll_br (es : List Event) (s : State) : (emitAll es s).br = s.br := rfl
@[simp] theorem emit_result (e : Event) (s : State) : (emit e s).result = s.result := rfl
@[simp] theorem emitAll_result (es : List Event) (s : State) : (emitAll es s).result = s.result := rfl
@[simp] theorem emit_inbox (e : Event) (s : State) : (emit e s).inbox = s.inbox := rfl
@[simp] theorem emitAll_inbox (es : List Event) (s : State) : (emitAll es s).inbox = s.inbox := rfl

/-! ## setSlot, setReasm, setAcc -/

@[simp] theorem setSlot_params (p : Pid) (v : Slot) (s : State) : (setSlot p v s).params = s.params := rfl
@[simp] theorem setReasm_params (p : Pid) (r : Reasm) (s : State) : (setReasm p r s).params = s.params := rfl
@[simp] theorem setAcc_params (p : Pid) (a : Option Bytes) (s : State) : (setAcc p a s).params = s.params := by
  unfold setAcc; split <;> rfl
@[simp] theorem setSlot_mode (p : Pid) (v : Slot) (s : State) : (setSlot p v s).mode = s.mode := rfl
@[simp] theorem setReasm_mode (p : Pid) (r : Reasm) (s : State) : (setReasm p r s).mode = s.mode := rfl
@[simp] theorem setAcc_mode (p : Pid) (a : Option Bytes) (s : State) : (setAcc p a s).mode = s.mode := by
  unfold setAcc; split <;> rfl
@[simp] theorem setSlot_fatalCode (p : Pid) (v : Slot) (s : State) : (setSlot p v s).fatalCode = s.fatalCode := rfl
@[simp] theorem setReasm_fatalCode (p : Pid) (r : Reasm) (s : State) : (setReasm p r s).fatalCode = s.fatalCode := rfl
@[simp] theorem setAcc_fatalCode (p : Pid) (a : Option Bytes) (s : State) : (setAcc p a s).fatalCode = s.fatalCode := by
  unfold setAcc; split <;> rfl
@[simp] theorem setSlot_cfg (p : Pid) (v : Slot) (s : State) : (setSlot p v s).cfg = s.cfg := rfl
@[simp] theorem setReasm_cfg (p : Pid) (r : Reasm) (s : State) : (setReasm p r s).cfg = s.cfg := rfl
@[simp] theorem setAcc_cfg (p : Pid) (a : Option Bytes) (s : State) : (setAcc p a s).cfg = s.cfg := by
  unfold setAcc; split <;> rfl
@[simp] theorem setSlot_pktbuf (p : Pid) (v : Slot) (s : State) : (setSlot p v s).pktbuf = s.pktbuf := rfl
@[simp] theorem setReasm_pktbuf (p : Pid) (r : Reasm) (s : State) : (setReasm p r s).pktbuf = s.pktbuf := rfl
@[simp] theorem setAcc_pktbuf (p : Pid) (a : Option Bytes) (s : State) : (setAcc p a s).pktbuf = s.pktbuf := by
  unfold setAcc; split <;> rfl
@[simp] theorem setSlot_pcrreg (p : Pid) (v : Slot) (s : State) : (setSlot p v s).pcrreg = s.pcrreg := rfl
@[simp] theorem setReasm_pcrreg (p : Pid) (r : Reasm) (s : State) : (setReasm p r s).pcrreg = s.pcrreg := rfl
@[simp] theorem setAcc_pcrreg (p : Pid) (a : Option Bytes) (s : State) : (setAcc p a s).pcrreg = s.pcrreg := by
  unfold setAcc; split <;> rfl
@[simp] theorem setSlot_rtpLast (p : Pid) (v : Slot) (s : State) : (setSlot p v s).rtpLast = s.rtpLast := rfl
@[simp] theorem setReasm_rtpLast (p : Pid) (r : Reasm) (s : State) : (setReasm p r s).rtpLast = s.rtpLast := rfl
@[simp] theorem setAcc_rtpLast (p : Pid) (a : Option Bytes) (s : State) : (setAcc p a s).rtpLast = s.rtpLast := by
  unfold setAcc; split <;> rfl
@[simp] theorem setSlot_fHi (p : Pid) (v : Slot) (s : State) : (setSlot p v s).fHi = s.fHi := rfl
@[simp] theorem setReasm_fHi (p : Pid) (r : Reasm) (s : State) : (setReasm p r s).fHi = s.fHi := rfl
@[simp] theorem setAcc_fHi (p : Pid) (a : Option Bytes) (s : State) : (setAcc p a s).fHi = s.fHi := by
  unfold setAcc; split <;> rfl
@[simp] theorem setSlot_fNext (p : Pid) (v : Slot) (s : State) : (setSlot p v s).fNext = s.fNext := rfl
@[simp] theorem setReasm_fNext (p : Pid) (r : Reasm) (s : State) : (setReasm p r s).fNext = s.fNext := rfl
@[simp] theorem setAcc_fNext (p : Pid) (a : Option Bytes) (s : State) : (setAcc p a s).fNext = s.fNext := by
  unfold setAcc; split <;> rfl
@[simp] theorem setSlot_fStore (p : Pid) (v : Slot) (s : State) : (setSlot p v s).fStore = s.fStore := rfl
@[simp] theorem setReasm_fStore (p : Pid) (r : Reasm) (s : State) : (setReasm p r s).fStore = s.fStore := rfl
@[simp] theorem setAcc_fStore (p : Pid) (a : Option Bytes) (s : State) : (setAcc p a s).fStore = s.fStore := by
  unfold setAcc; split <;> rfl
@[simp] theorem setSlot_fPar (p : Pid) (v : Slot) (s : State) : (setSlot p v s).fPar = s.fPar := rfl
@[simp] theorem setReasm_fPar (p : Pid) (r : Reasm) (s : State) : (setReasm p r s).fPar = s.fPar := rfl
@[simp] theorem setAcc_fPar (p : Pid) (a : Option Bytes) (s : State) : (setAcc p a s).fPar = s.fPar := by
  unfold setAcc; split <;> rfl
@[simp] theorem setSlot_events (p : Pid) (v : Slot) (s : State) : (setSlot p v s).events = s.events := rfl
@[simp] theorem setReasm_events (p : Pid) (r : Reasm) (s : State) : (setReasm p r s).events = s.events := rfl
@[simp] theorem setAcc_events (p : Pid) (a : Option Bytes) (s : State) : (setAcc p a s).events = s.events := by
  unfold setAcc; split <;> rfl
@[simp] theorem setSlot_br (p : Pid) (v : Slot) (s : State) : (setSlot p v s).br = s.br := rfl
@[simp] theorem setReasm_br (p : Pid) (r : Reasm) (s : State) : (setReasm p r s).br = s.br := rfl
@[simp] theorem setAcc_br (p : Pid) (a : Option Bytes) (s : State) : (setAcc p a s).br = s.br := by
  unfold setAcc; split <;> rfl
@[simp] theorem setSlot_result (p : Pid) (v : Slot) (s : State) : (setSlot p v s).result = s.result := rfl
@[simp] theorem setReasm_result (p : Pid) (r : Reasm) (s : State) : (setReasm p r s).result = s.result := rfl
@[simp] theorem setAcc_result (p : Pid) (a : Option Bytes) (s : State) : (setAcc p a s).result = s.result := by
  unfold setAcc; split <;> rfl
@[simp] theorem setSlot_inbox (p : Pid) (v : Slot) (s : State) : (setSlot p v s).inbox = s.inbox := rfl
@[simp] theorem setReasm_inbox (p : Pid) (r : Reasm) (s : State) : (setReasm p r s).inbox = s.inbox := rfl
@[simp] theorem setAcc_inbox (p : Pid) (a : Option Bytes) (s : State) : (setAcc p a s).inbox = s.inbox := by
  unfold setAcc; split <;> rfl

/-! ## setPcr -/

@[simp] theorem setPcr_params (k : Pid) (e : PcrEntry) (s : State) : (setPcr k e s).params = s.params := rfl
@[simp] theorem setPcr_mode (k : Pid) (e : PcrEntry) (s : State) : (setPcr k e s).mode = s.mode := rfl
@[simp] theorem setPcr_fatalCode (k : Pid) (e : PcrEntry) (s : State) : (setPcr k e s).fatalCode = s.fatalCode := rfl
@[simp] theorem setPcr_cfg (k : Pid) (e : PcrEntry) (s : State) : (setPcr k e s).cfg = s.cfg := rfl
@[simp] theorem setPcr_pktbuf (k : Pid) (e : PcrEntry) (s : State) : (setPcr k e s).pktbuf = s.pktbuf := rfl
@[simp] theorem setPcr_ft (k : Pid) (e : PcrEntry) (s : State) : (setPcr k e s).ft = s.ft := rfl
@[simp] theorem setPcr_rtpLast (k : Pid) (e : PcrEntry) (s : State) : (setPcr k e s).rtpLast = s.rtpLast := rfl
@[simp] theorem setPcr_fHi (k : Pid) (e : PcrEntry) (s : State) : (setPcr k e s).fHi = s.fHi := rfl
@[simp] theorem setPcr_fNext (k : Pid) (e : PcrEntry) (s : State) : (setPcr k e s).fNext = s.fNext := rfl
@[simp] theorem setPcr_fStore (k : Pid) (e : PcrEntry) (s : State) : (setPcr k e s).fStore = s.fStore := rfl
@[simp] theorem setPcr_fPar (k : Pid) (e : PcrEntry) (s : State) : (setPcr k e s).fPar = s.fPar := rfl
@[simp] theorem setPcr_events (k : Pid) (e : PcrEntry) (s : State) : (setPcr k e s).events = s.events := rfl
@[simp] theorem setPcr_br (k : Pid) (e : PcrEntry) (s : State) : (setPcr k e s).br = s.br := rfl
@[simp] theorem setPcr_result (k : Pid) (e : PcrEntry) (s : State) : (setPcr k e s).result = s.result := rfl
@[simp] theorem setPcr_inbox (k : Pid) (e : PcrEntry) (s : State) : (setPcr k e s).inbox = s.inbox := rfl

/-! ## raise: what taking an exception writes and what it leaves -/

@[simp] theorem raise_params (x : Exn) (s : State) : (raise x s).params = s.params := by
  cases x <;> rfl
@[simp] theorem raise_cfg (x : Exn) (s : State) : (raise x s).cfg = s.cfg := by
  cases x <;> rfl
@[simp] theorem raise_ft (x : Exn) (s : State) : (raise x s).ft = s.ft := by
  cases x <;> rfl
@[simp] theorem raise_pcrreg (x : Exn) (s : State) : (raise x s).pcrreg = s.pcrreg := by
  cases x <;> rfl
@[simp] theorem raise_rtpLast (x : Exn) (s : State) : (raise x s).rtpLast = s.rtpLast := by
  cases x <;> rfl
@[simp] theorem raise_fHi (x : Exn) (s : State) : (raise x s).fHi = s.fHi := by
  cases x <;> rfl
@[simp] theorem raise_fNext (x : Exn) (s : State) : (raise x s).fNext = s.fNext := by
  cases x <;> rfl
@[simp] theorem raise_fStore (x : Exn) (s : State) : (raise x s).fStore = s.fStore := by
  cases x <;> rfl
@[simp] theorem raise_fPar (x : Exn) (s : State) : (raise x s).fPar = s.fPar := by
  cases x <;> rfl
@[simp] theorem raise_br (x : Exn) (s : State) : (raise x s).br = s.br := by
  cases x <;> rfl
@[simp] theorem raise_result (x : Exn) (s : State) : (raise x s).result = s.result := by
  cases x <;> rfl
@[simp] theorem raise_inbox (x : Exn) (s : State) : (raise x s).inbox = s.inbox := by
  cases x <;> rfl
@[simp] theorem raise_events (x : Exn) (s : State) : (raise x s).events = s.events ++ [.exn x] := by
  cases x <;> rfl

/-- A recoverable exception or notice does nothing but append its event (R394). -/
theorem raise_recoverable {x : Exn} (h : x.fatalCode = none) (s : State) : raise x s = emit (.exn x) s := by
  simp [raise, h]

/-- A fatal exception latches FATAL with its number and empties `PKTBUF` (R396). -/
theorem raise_fatal {x : Exn} {code : BitVec 8} (h : x.fatalCode = some code) (s : State) :
    raise x s = { s with events := s.events ++ [.exn x], fatalCode := code, mode := .fatal, pktbuf := [] } := by
  simp [raise, h]

/-! ## Slot reads through the updates that do not write the table -/

@[simp] theorem slotAt_emit (e : Event) (s : State) (p : Pid) : slotAt (emit e s) p = slotAt s p := rfl
@[simp] theorem formAt_emit (e : Event) (s : State) (p : Pid) : formAt (emit e s) p = formAt s p := rfl
@[simp] theorem reasmAt_emit (e : Event) (s : State) (p : Pid) : reasmAt (emit e s) p = reasmAt s p := rfl
@[simp] theorem accAt_emit (e : Event) (s : State) (p : Pid) : accAt (emit e s) p = accAt s p := rfl
@[simp] theorem slotAt_emitAll (es : List Event) (s : State) (p : Pid) : slotAt (emitAll es s) p = slotAt s p := rfl
@[simp] theorem formAt_emitAll (es : List Event) (s : State) (p : Pid) : formAt (emitAll es s) p = formAt s p := rfl
@[simp] theorem reasmAt_emitAll (es : List Event) (s : State) (p : Pid) : reasmAt (emitAll es s) p = reasmAt s p := rfl
@[simp] theorem accAt_emitAll (es : List Event) (s : State) (p : Pid) : accAt (emitAll es s) p = accAt s p := rfl
@[simp] theorem slotAt_raise (x : Exn) (s : State) (p : Pid) : slotAt (raise x s) p = slotAt s p := by
  cases x <;> rfl
@[simp] theorem formAt_raise (x : Exn) (s : State) (p : Pid) : formAt (raise x s) p = formAt s p := by
  cases x <;> rfl
@[simp] theorem reasmAt_raise (x : Exn) (s : State) (p : Pid) : reasmAt (raise x s) p = reasmAt s p := by
  cases x <;> rfl
@[simp] theorem accAt_raise (x : Exn) (s : State) (p : Pid) : accAt (raise x s) p = accAt s p := by
  cases x <;> rfl
@[simp] theorem slotAt_setPcr (k : Pid) (e : PcrEntry) (s : State) (p : Pid) : slotAt (setPcr k e s) p = slotAt s p := rfl
@[simp] theorem formAt_setPcr (k : Pid) (e : PcrEntry) (s : State) (p : Pid) : formAt (setPcr k e s) p = formAt s p := rfl
@[simp] theorem reasmAt_setPcr (k : Pid) (e : PcrEntry) (s : State) (p : Pid) : reasmAt (setPcr k e s) p = reasmAt s p := rfl
@[simp] theorem accAt_setPcr (k : Pid) (e : PcrEntry) (s : State) (p : Pid) : accAt (setPcr k e s) p = accAt s p := rfl
@[simp] theorem pcrAt_emit (e : Event) (s : State) (k : Pid) : pcrAt (emit e s) k = pcrAt s k := rfl
@[simp] theorem pcrAt_emitAll (es : List Event) (s : State) (k : Pid) : pcrAt (emitAll es s) k = pcrAt s k := rfl
@[simp] theorem pcrAt_raise (x : Exn) (s : State) (k : Pid) : pcrAt (raise x s) k = pcrAt s k := by
  cases x <;> rfl
@[simp] theorem pcrAt_setSlot (q : Pid) (v : Slot) (s : State) (k : Pid) : pcrAt (setSlot q v s) k = pcrAt s k := rfl
@[simp] theorem pcrAt_setReasm (q : Pid) (r : Reasm) (s : State) (k : Pid) : pcrAt (setReasm q r s) k = pcrAt s k := rfl
@[simp] theorem pcrAt_setAcc (q : Pid) (a : Option Bytes) (s : State) (k : Pid) : pcrAt (setAcc q a s) k = pcrAt s k := by
  unfold setAcc; split <;> rfl

end Sys2Proof.Machine
end

