-- ==== Sys2Proof/Laws/Bits.lean ====
section
/-! SUPPORT. The bit reader (R130 to R134): what a read and a skip can do, said once. -/

namespace Sys2Proof.Machine

theorem bitAt_lt (buf : Bytes) (p : Nat) : bitAt buf p < 2 := Nat.mod_lt _ (by decide)

/-- A field of `n` bits is below `2^n` (R132). -/
theorem bitsAt_lt (buf : Bytes) (p n : Nat) : bitsAt buf p n < 2 ^ n := by
  induction n with
  | zero => simp [bitsAt]
  | succ n ih =>
    have := bitAt_lt buf (p + n)
    simp only [bitsAt, Nat.pow_succ]
    omega

/-- A field is the field of its first bits, then that of its last. -/
theorem bitsAt_add (buf : Bytes) (p a b : Nat) :
    bitsAt buf p (a + b) = bitsAt buf p a * 2 ^ b + bitsAt buf (p + a) b := by
  induction b with
  | zero => simp [bitsAt]
  | succ b ih =>
    rw [← Nat.add_assoc, bitsAt, ih, bitsAt, Nat.pow_succ, Nat.add_assoc p a b]
    ring

/-- A read either stays inside the buffer, gives the field at the cursor and moves the cursor over it, or is an underrun
(R132). -/
theorem brRead_eq (n : Nat) (b : BitReader) :
    brRead n b = if b.pos + n ≤ 8 * b.buf.length then some (bitsAt b.buf b.pos n, ⟨b.buf, b.pos + n⟩) else none := by
  unfold brRead
  split
  · rw [if_neg (by omega)]
  · rw [if_pos (by omega)]

/-- A skip moves the cursor inside the buffer, or is an underrun (R133). -/
theorem brSkip_eq (n : Nat) (b : BitReader) :
    brSkip n b = if b.pos + n ≤ 8 * b.buf.length then some ⟨b.buf, b.pos + n⟩ else none := by
  unfold brSkip
  split
  · rw [if_neg (by omega)]
  · rw [if_pos (by omega)]

/-- One field read in a parse. -/
theorem readP_eq (w : Nat) (b : BitReader) :
    readP w b =
      if b.pos + w ≤ 8 * b.buf.length then some (BitVec.ofNat w (bitsAt b.buf b.pos w), ⟨b.buf, b.pos + w⟩) else none := by
  unfold readP
  rw [brRead_eq]
  by_cases h : b.pos + w ≤ 8 * b.buf.length <;> simp [h]

/-- Bits skipped in a parse. -/
theorem skipP_eq (n : Nat) (b : BitReader) :
    skipP n b = if b.pos + n ≤ 8 * b.buf.length then some ((), ⟨b.buf, b.pos + n⟩) else none := by
  unfold skipP
  rw [brSkip_eq]
  by_cases h : b.pos + n ≤ 8 * b.buf.length <;> simp [h]

/-- A sequence answers when its first part does and its second does after it. -/
theorem bindP_eq_some {α β : Type} {p : Parse α} {f : α → Parse β} {b : BitReader} {r : β × BitReader} :
    bindP p f b = some r ↔ ∃ a b', p b = some (a, b') ∧ f a b' = some r := by
  unfold bindP
  cases h : p b with
  | none => simp
  | some x => obtain ⟨a, b'⟩ := x; simp

/-- What a parse can do to the reader: the buffer stays, the cursor moves forward and not past its end. -/
def Parse.Sound {α : Type} (p : Parse α) : Prop :=
  ∀ b a b', b.pos ≤ 8 * b.buf.length → p b = some (a, b') → b'.buf = b.buf ∧ b.pos ≤ b'.pos ∧ b'.pos ≤ 8 * b'.buf.length

theorem pureP_sound {α : Type} (a : α) : (pureP a).Sound := by
  intro b x b' hb h
  simp only [pureP, Option.some.injEq, Prod.mk.injEq] at h
  obtain ⟨-, rfl⟩ := h
  exact ⟨rfl, le_rfl, hb⟩

theorem readP_sound (w : Nat) : (readP w).Sound := by
  intro b x b' hb h
  rw [readP_eq] at h
  split at h
  · simp only [Option.some.injEq, Prod.mk.injEq] at h
    obtain ⟨-, rfl⟩ := h
    exact ⟨rfl, Nat.le_add_right _ _, ‹_›⟩
  · cases h

theorem skipP_sound (n : Nat) : (skipP n).Sound := by
  intro b x b' hb h
  rw [skipP_eq] at h
  split at h
  · simp only [Option.some.injEq, Prod.mk.injEq] at h
    obtain ⟨-, rfl⟩ := h
    exact ⟨rfl, Nat.le_add_right _ _, ‹_›⟩
  · cases h

theorem bindP_sound {α β : Type} {p : Parse α} {f : α → Parse β} (hp : p.Sound) (hf : ∀ a, (f a).Sound) :
    (bindP p f).Sound := by
  intro b x b' hb h
  obtain ⟨a, c, h₁, h₂⟩ := bindP_eq_some.mp h
  obtain ⟨e₁, l₁, u₁⟩ := hp b a c hb h₁
  obtain ⟨e₂, l₂, u₂⟩ := hf a c x b' u₁ h₂
  exact ⟨e₂.trans e₁, l₁.trans l₂, u₂⟩

end Sys2Proof.Machine
end

