-- ==== Sys2Proof/Laws/Tables.lean ====
section
/-! SUPPORT. The sparse tables behind `FT`, `PCRREG` and `F_STORE`: what a read gives after a write or an erasure, and
that every operation keeps the canonical form. -/

namespace Sys2Proof.Machine

variable {α : Type}

/-! ## Reading after writing -/

@[simp] theorem tableGet_put_same (k : Nat) (v : α) (t : List (Nat × α)) : tableGet k (tablePut k v t) = some v := by
  induction t with
  | nil => simp [tablePut, tableGet]
  | cons e rest ih =>
    obtain ⟨j, w⟩ := e
    unfold tablePut
    split
    · simp [tableGet]
    · split
      · simp [tableGet]
      · next h1 h2 => simp [tableGet, Ne.symm h2, ih]

theorem tableGet_put_other {k j : Nat} (h : j ≠ k) (v : α) (t : List (Nat × α)) :
    tableGet j (tablePut k v t) = tableGet j t := by
  induction t with
  | nil => simp [tablePut, tableGet, h.symm]
  | cons e rest ih =>
    obtain ⟨i, w⟩ := e
    unfold tablePut
    split
    · simp [tableGet, h.symm]
    · split
      · next h2 => subst h2; simp [tableGet, h.symm]
      · simp [tableGet, ih]

@[simp] theorem tableGet_erase_same (k : Nat) (t : List (Nat × α)) : tableGet k (tableErase k t) = none := by
  induction t with
  | nil => rfl
  | cons e rest ih =>
    obtain ⟨j, w⟩ := e
    unfold tableErase
    split
    · exact ih
    · next h => simp [tableGet, h, ih]

theorem tableGet_erase_other {k j : Nat} (h : j ≠ k) (t : List (Nat × α)) :
    tableGet j (tableErase k t) = tableGet j t := by
  induction t with
  | nil => rfl
  | cons e rest ih =>
    obtain ⟨i, w⟩ := e
    unfold tableErase
    split
    · next h2 => subst h2; simp [tableGet, h.symm, ih]
    · simp [tableGet, ih]

/-- A second write at a key replaces the first, entry for entry. -/
theorem tablePut_put (k : Nat) (v w : α) (t : List (Nat × α)) : tablePut k v (tablePut k w t) = tablePut k v t := by
  induction t with
  | nil => simp [tablePut]
  | cons e rest ih =>
    obtain ⟨j, x⟩ := e
    rw [tablePut.eq_def k w, tablePut.eq_def k v ((j, x) :: rest)]
    by_cases h1 : k < j
    · simp [h1, tablePut]
    · by_cases h2 : k = j
      · simp [h2, tablePut]
      · simp [h1, h2, tablePut, ih]

/-- What a table reads is one of its entries. -/
theorem tableGet_mem {k : Nat} {v : α} {t : List (Nat × α)} (h : tableGet k t = some v) : (k, v) ∈ t := by
  induction t with
  | nil => cases h
  | cons e rest ih =>
    obtain ⟨j, w⟩ := e
    simp only [tableGet] at h
    split at h
    · subst_vars; cases h; exact List.mem_cons_self
    · exact List.mem_cons_of_mem _ (ih h)

/-- Filtering by key keeps the entries whose key passes and drops the others. -/
theorem tableGet_filter_key (f : Nat → Bool) (k : Nat) (t : List (Nat × α)) :
    tableGet k (t.filter fun e => f e.1) = if f k then tableGet k t else none := by
  induction t with
  | nil => simp [tableGet]
  | cons e rest ih =>
    obtain ⟨j, w⟩ := e
    by_cases hj : j = k
    · subst hj
      cases hf : f j <;> simp [hf, tableGet, ih]
    · cases hf : f j <;> simp [hf, tableGet, hj, ih]

/-! ## The canonical form -/

theorem keysRising_mono {bound lo lo' : Nat} (h : lo' ≤ lo) {t : List (Nat × α)} (ht : keysRising bound lo t = true) :
    keysRising bound lo' t = true := by
  cases t with
  | nil => rfl
  | cons e rest =>
    obtain ⟨k, v⟩ := e
    simp only [keysRising, Bool.and_eq_true, decide_eq_true_eq] at ht ⊢
    exact ⟨⟨h.trans ht.1.1, ht.1.2⟩, ht.2⟩

theorem keysRising_put {bound lo k : Nat} (hlo : lo ≤ k) (hk : k < bound) (v : α) {t : List (Nat × α)}
    (ht : keysRising bound lo t = true) : keysRising bound lo (tablePut k v t) = true := by
  induction t generalizing lo with
  | nil => simp [tablePut, keysRising, hlo, hk]
  | cons e rest ih =>
    obtain ⟨j, w⟩ := e
    simp only [keysRising, Bool.and_eq_true, decide_eq_true_eq] at ht
    unfold tablePut
    split
    · next h => simp [keysRising, hlo, hk, h, ht]
    · split
      · next h1 h2 => subst h2; simp [keysRising, hlo, hk, ht]
      · next h1 h2 =>
        have : j + 1 ≤ k := by omega
        simp [keysRising, ht, ih this ht.2]

theorem keysRising_erase {bound lo k : Nat} {t : List (Nat × α)} (ht : keysRising bound lo t = true) :
    keysRising bound lo (tableErase k t) = true := by
  induction t generalizing lo with
  | nil => rfl
  | cons e rest ih =>
    obtain ⟨j, w⟩ := e
    simp only [keysRising, Bool.and_eq_true, decide_eq_true_eq] at ht
    unfold tableErase
    split
    · exact keysRising_mono (by omega) (ih ht.2)
    · simp [keysRising, ht, ih ht.2]

theorem keysRising_filter {bound lo : Nat} (p : Nat × α → Bool) {t : List (Nat × α)}
    (ht : keysRising bound lo t = true) : keysRising bound lo (t.filter p) = true := by
  induction t generalizing lo with
  | nil => rfl
  | cons e rest ih =>
    obtain ⟨j, w⟩ := e
    simp only [keysRising, Bool.and_eq_true, decide_eq_true_eq] at ht
    cases hp : p (j, w)
    · simp only [List.filter_cons, hp]
      exact keysRising_mono (by omega) (ih ht.2)
    · simp [hp, keysRising, ht, ih ht.2]

theorem all_put (p : Nat × α → Bool) {k : Nat} {v : α} (hv : p (k, v) = true) {t : List (Nat × α)}
    (ht : t.all p = true) : (tablePut k v t).all p = true := by
  induction t with
  | nil => simp [tablePut, hv]
  | cons e rest ih =>
    obtain ⟨j, w⟩ := e
    simp only [List.all_cons, Bool.and_eq_true] at ht
    unfold tablePut
    split
    · simp only [List.all_cons, Bool.and_eq_true]; exact ⟨hv, ht⟩
    · split
      · simp only [List.all_cons, Bool.and_eq_true]; exact ⟨hv, ht.2⟩
      · simp only [List.all_cons, Bool.and_eq_true]; exact ⟨ht.1, ih ht.2⟩

theorem all_erase (p : Nat × α → Bool) {k : Nat} {t : List (Nat × α)} (ht : t.all p = true) :
    (tableErase k t).all p = true := by
  induction t with
  | nil => rfl
  | cons e rest ih =>
    obtain ⟨j, w⟩ := e
    simp only [List.all_cons, Bool.and_eq_true] at ht
    unfold tableErase
    split
    · exact ih ht.2
    · simp only [List.all_cons, Bool.and_eq_true]; exact ⟨ht.1, ih ht.2⟩

/-- The canonical form, field by field. -/
theorem memory_wf_iff (s : State) :
    Memory.wf s = true ↔ keysRising 8192 0 s.ft = true ∧ s.ft.all slotListed = true ∧ keysRising 8192 0 s.pcrreg = true ∧
      s.pcrreg.all pcrListed = true ∧ keysRising Config.seqSpace 0 s.fStore = true := by
  simp only [Memory.wf, Bool.and_eq_true, and_assoc]

/-- The memory of the reset state is canonical. -/
theorem memory_wf_reset : Memory.wf State.reset = true := by decide

theorem setSlot_wf (p : Pid) (v : Slot) {s : State} (h : Memory.wf s = true) : Memory.wf (setSlot p v s) = true := by
  rw [memory_wf_iff] at h ⊢
  refine ⟨?_, ?_, h.2.2⟩
  · simp only [setSlot]
    split
    · exact keysRising_erase h.1
    · exact keysRising_put (Nat.zero_le _) p.isLt v h.1
  · simp only [setSlot]
    split
    · exact all_erase _ h.2.1
    · next hv => exact all_put _ (by simp [slotListed, hv]) h.2.1

theorem setPcr_wf (k : Pid) (e : PcrEntry) {s : State} (h : Memory.wf s = true) : Memory.wf (setPcr k e s) = true := by
  rw [memory_wf_iff] at h ⊢
  refine ⟨h.1, h.2.1, ?_, ?_, h.2.2.2.2⟩
  · simp only [setPcr]
    split
    · exact keysRising_erase h.2.2.1
    · exact keysRising_put (Nat.zero_le _) k.isLt e h.2.2.1
  · simp only [setPcr]
    split
    · exact all_erase _ h.2.2.2.1
    · next hv => exact all_put _ (by simp [pcrListed, hv]) h.2.2.2.1

theorem setReasm_wf (p : Pid) (r : Reasm) {s : State} (h : Memory.wf s = true) : Memory.wf (setReasm p r s) = true :=
  setSlot_wf p _ h

theorem setAcc_wf (p : Pid) (a : Option Bytes) {s : State} (h : Memory.wf s = true) : Memory.wf (setAcc p a s) = true := by
  unfold setAcc
  split
  · exact h
  · exact setReasm_wf p _ h

theorem fecStore_wf (hi m : SeqNum) (p : Bytes) {s : State} (h : Memory.wf s = true) :
    Memory.wf (fecStore hi m p s).1 = true := by
  unfold fecStore
  split
  · exact h
  · rw [memory_wf_iff] at h ⊢
    exact ⟨h.1, h.2.1, h.2.2.1, h.2.2.2.1,
      keysRising_filter _ (keysRising_put (Nat.zero_le _) m.isLt p h.2.2.2.2)⟩

/-! ## Slots, entries and reassemblers after a write -/

@[simp] theorem slotAt_setSlot_same (p : Pid) (v : Slot) (s : State) : slotAt (setSlot p v s) p = v := by
  simp only [slotAt, setSlot]
  split <;> simp [*]

theorem slotAt_setSlot_other {p q : Pid} (h : q ≠ p) (v : Slot) (s : State) :
    slotAt (setSlot p v s) q = slotAt s q := by
  have hn : q.toNat ≠ p.toNat := fun e => h (BitVec.eq_of_toNat_eq e)
  simp only [slotAt, setSlot]
  split
  · rw [tableGet_erase_other hn]
  · rw [tableGet_put_other hn]

@[simp] theorem pcrAt_setPcr_same (k : Pid) (e : PcrEntry) (s : State) : pcrAt (setPcr k e s) k = e := by
  simp only [pcrAt, setPcr]
  split <;> simp [*]

theorem pcrAt_setPcr_other {k j : Pid} (h : j ≠ k) (e : PcrEntry) (s : State) :
    pcrAt (setPcr k e s) j = pcrAt s j := by
  have hn : j.toNat ≠ k.toNat := fun e => h (BitVec.eq_of_toNat_eq e)
  simp only [pcrAt, setPcr]
  split
  · rw [tableGet_erase_other hn]
  · rw [tableGet_put_other hn]

@[simp] theorem Slot.withReasm_form (r : Reasm) (v : Slot) : (v.withReasm r).form = v.form := by
  cases v <;> rfl

@[simp] theorem freshSlot_form (f : Form) : (freshSlot f).form = f := by
  cases f <;> rfl

/-- Writing a reassembler leaves every slot's form. -/
@[simp] theorem formAt_setReasm (p : Pid) (r : Reasm) (s : State) (q : Pid) : formAt (setReasm p r s) q = formAt s q := by
  by_cases h : q = p
  · subst h; simp [formAt, setReasm]
  · simp [formAt, setReasm, slotAt_setSlot_other h]

@[simp] theorem formAt_setAcc (p : Pid) (a : Option Bytes) (s : State) (q : Pid) : formAt (setAcc p a s) q = formAt s q := by
  unfold setAcc
  split
  · rfl
  · exact formAt_setReasm p _ s q

/-- A section filter's reassembler reads as written. -/
theorem reasmAt_setReasm {p : Pid} {r₀ : Reasm} {s : State} (h : reasmAt s p = some r₀) (r : Reasm) :
    reasmAt (setReasm p r s) p = some r := by
  unfold reasmAt at h
  unfold reasmAt setReasm
  rw [slotAt_setSlot_same]
  generalize slotAt s p = v at h ⊢
  cases v <;> simp_all [Slot.reasm, Slot.withReasm]

theorem reasmAt_setReasm_other {p q : Pid} (h : q ≠ p) (r : Reasm) (s : State) :
    reasmAt (setReasm p r s) q = reasmAt s q := by
  simp [reasmAt, setReasm, slotAt_setSlot_other h]

/-- The whole of what `setAcc` does to a section filter: its partial section is replaced, its continuity tracker kept. -/
theorem setAcc_spec {p : Pid} {r : Reasm} {s : State} (h : reasmAt s p = some r) (a : Option Bytes) :
    setAcc p a s = setReasm p { r with acc := a } s := by
  simp [setAcc, h]

theorem accAt_setAcc {p : Pid} {r : Reasm} {s : State} (h : reasmAt s p = some r) (a : Option Bytes) :
    accAt (setAcc p a s) p = a := by
  rw [setAcc_spec h, accAt, reasmAt_setReasm h]; rfl

/-- CLASSIFY leaves every other slot (R232). -/
theorem slotAt_classify_other {p q : Pid} (h : q ≠ p) (f : Form) (s : State) : slotAt (classify p f s) q = slotAt s q := by
  unfold classify
  split
  · rfl
  · exact slotAt_setSlot_other h _ s

/-- After CLASSIFY the slot has the form (R232). -/
theorem formAt_classify_same (p : Pid) (f : Form) (s : State) : formAt (classify p f s) p = f := by
  unfold classify
  split
  · next h => exact h.1
  · simp [formAt]

end Sys2Proof.Machine
end

