-- ==== Sys2Proof/Laws/Demux.lean ====
section
/-! SUPPORT. What the operations of the demultiplexer can do, said once each: the frame of the packet path (tables and
events only), of the framing loop, and of delivery. -/

namespace Sys2Proof.Machine

/-- Only the two tables and the event stream differ, and events are only appended: what the processing of one packet,
section or table can do. -/
structure Quiet (s t : State) : Prop where
  params : t.params = s.params
  mode : t.mode = s.mode
  fatalCode : t.fatalCode = s.fatalCode
  cfg : t.cfg = s.cfg
  pktbuf : t.pktbuf = s.pktbuf
  rtpLast : t.rtpLast = s.rtpLast
  fHi : t.fHi = s.fHi
  fNext : t.fNext = s.fNext
  fStore : t.fStore = s.fStore
  fPar : t.fPar = s.fPar
  br : t.br = s.br
  result : t.result = s.result
  inbox : t.inbox = s.inbox
  events : eventsGrow s t

theorem eventsGrow_refl (s : State) : eventsGrow s s := ⟨[], by simp⟩

theorem eventsGrow_trans {s t u : State} (h₁ : eventsGrow s t) (h₂ : eventsGrow t u) : eventsGrow s u := by
  obtain ⟨a, ha⟩ := h₁
  obtain ⟨b, hb⟩ := h₂
  exact ⟨a ++ b, by rw [hb, ha, List.append_assoc]⟩

theorem Quiet.refl (s : State) : Quiet s s :=
  ⟨rfl, rfl, rfl, rfl, rfl, rfl, rfl, rfl, rfl, rfl, rfl, rfl, rfl, eventsGrow_refl s⟩

theorem Quiet.trans {s t u : State} (h₁ : Quiet s t) (h₂ : Quiet t u) : Quiet s u :=
  ⟨h₂.params.trans h₁.params, h₂.mode.trans h₁.mode, h₂.fatalCode.trans h₁.fatalCode, h₂.cfg.trans h₁.cfg,
    h₂.pktbuf.trans h₁.pktbuf, h₂.rtpLast.trans h₁.rtpLast, h₂.fHi.trans h₁.fHi, h₂.fNext.trans h₁.fNext,
    h₂.fStore.trans h₁.fStore, h₂.fPar.trans h₁.fPar, h₂.br.trans h₁.br, h₂.result.trans h₁.result,
    h₂.inbox.trans h₁.inbox, eventsGrow_trans h₁.events h₂.events⟩

theorem quiet_emitAll (es : List Event) (s : State) : Quiet s (emitAll es s) :=
  ⟨rfl, rfl, rfl, rfl, rfl, rfl, rfl, rfl, rfl, rfl, rfl, rfl, rfl, ⟨es, rfl⟩⟩

theorem quiet_raise {x : Exn} (h : x.fatalCode = none) (s : State) : Quiet s (raise x s) := by
  rw [raise_recoverable h]
  exact ⟨rfl, rfl, rfl, rfl, rfl, rfl, rfl, rfl, rfl, rfl, rfl, rfl, rfl, ⟨[.exn x], rfl⟩⟩

theorem quiet_setSlot (p : Pid) (v : Slot) (s : State) : Quiet s (setSlot p v s) :=
  ⟨rfl, rfl, rfl, rfl, rfl, rfl, rfl, rfl, rfl, rfl, rfl, rfl, rfl, ⟨[], by simp⟩⟩

theorem quiet_setPcr (k : Pid) (e : PcrEntry) (s : State) : Quiet s (setPcr k e s) :=
  ⟨rfl, rfl, rfl, rfl, rfl, rfl, rfl, rfl, rfl, rfl, rfl, rfl, rfl, ⟨[], by simp⟩⟩

theorem quiet_setAcc (p : Pid) (a : Option Bytes) (s : State) : Quiet s (setAcc p a s) := by
  unfold setAcc
  split
  · exact Quiet.refl s
  · exact quiet_setSlot p _ s

/-! ## Tables and sections -/

theorem quiet_classify (p : Pid) (f : Form) (s : State) : Quiet s (classify p f s) := by
  unfold classify
  split
  · exact Quiet.refl s
  · exact quiet_setSlot p _ s

theorem quiet_foldl {β : Type} (step : State → β → State) (h : ∀ s b, Quiet s (step s b)) (bs : List β) (s : State) :
    Quiet s (bs.foldl step s) := by
  induction bs generalizing s with
  | nil => exact Quiet.refl s
  | cons b rest ih => exact (h s b).trans (ih _)

theorem quiet_patSection (p : Pid) (sec : Bytes) (s : State) : Quiet s (patSection p sec s) := by
  unfold patSection
  split
  · exact quiet_raise rfl s
  · exact quiet_foldl _ (fun s e => quiet_classify _ _ s) _ s

theorem quiet_applyPmt (p : Pid) (es : List (Pid × Bool)) (s : State) : Quiet s (applyPmt p es s) := by
  unfold applyPmt
  refine Quiet.trans ?_ (quiet_foldl _ (fun s e => quiet_classify _ _ s) _ _)
  split
  · exact quiet_setPcr p _ s
  · exact Quiet.refl s

theorem quiet_pmtSection (p : Pid) (pn : BitVec 16) (sec : Bytes) (s : State) : Quiet s (pmtSection p pn sec s) := by
  unfold pmtSection
  split
  · exact quiet_raise rfl s
  · exact quiet_raise rfl s
  · exact quiet_applyPmt p _ s

theorem quiet_complete (p : Pid) (sec : Bytes) (s : State) : Quiet s (complete p sec s) := by
  unfold complete
  split
  · exact Quiet.refl s
  · split
    · exact quiet_raise rfl s
    · split
      · exact quiet_raise rfl s
      · unfold processSection
        split
        · exact quiet_patSection p sec s
        · exact quiet_pmtSection p _ sec s
        · exact quiet_emitAll _ s
        · exact Quiet.refl s
        · exact Quiet.refl s
        · exact Quiet.refl s

theorem quiet_feed (n : Nat) (p : Pid) (f : Form) (data : Bytes) (fresh : Bool) (s : State) :
    Quiet s (feed n p f data fresh s).1 := by
  induction n generalizing data s with
  | zero => exact Quiet.refl s
  | succ n ih =>
    unfold feed
    split
    · exact Quiet.refl s
    · split
      · exact Quiet.refl s
      · split
        · exact quiet_setAcc p _ s
        · exact (quiet_raise rfl s).trans (quiet_setAcc p _ _)
        · next sec rest _ =>
          have h := (quiet_setAcc p none s).trans (quiet_complete p sec (setAcc p none s))
          simp only
          split
          · exact h
          · exact h.trans (ih _ _)

theorem quiet_continuity (p : Pid) (cc : Cc) (r : Reasm) (s : State) : Quiet s (continuity p cc r s) := by
  unfold continuity
  split
  · exact (quiet_setSlot p _ s).trans (quiet_raise rfl _)
  · exact quiet_setSlot p _ s

theorem quiet_consumeStart (p : Pid) (f : Form) (ptr : Byte) (d : Bytes) (s : State) :
    Quiet s (consumeStart p f ptr d s) := by
  unfold consumeStart
  split
  · exact (quiet_raise rfl s).trans (quiet_setAcc p _ _)
  · simp only
    split
    · exact quiet_feed _ p f _ _ s
    · split
      · exact quiet_feed _ p f _ _ s
      · refine Quiet.trans (Quiet.trans (quiet_feed (d.take ptr.toNat).length p f (d.take ptr.toNat) false s) ?_)
          (quiet_feed _ p f _ _ _)
        split
        · exact Quiet.refl _
        · exact (quiet_raise rfl _).trans (quiet_setAcc p _ _)

theorem quiet_consume (p : Pid) (pusi : BitVec 1) (cc : Cc) (d : Bytes) (s : State) :
    Quiet s (consume p pusi cc d s) := by
  unfold consume
  split
  · exact Quiet.refl s
  · simp only
    split
    · split
      · exact quiet_continuity p cc _ s
      · exact (quiet_continuity p cc _ s).trans (quiet_consumeStart p _ _ _ _)
    · split
      · exact quiet_continuity p cc _ s
      · exact (quiet_continuity p cc _ s).trans (quiet_feed _ p _ _ _ _)

/-! ## Packets -/

theorem quiet_routeBuilt (u : RouteUnit) (s : State) : Quiet s (routeBuilt u s) := by
  have hsec : Quiet s (routeSection u s) := by
    unfold routeSection
    split
    · exact Quiet.refl s
    · exact quiet_consume _ _ _ _ s
  unfold routeBuilt
  split
  · exact Quiet.refl s
  · exact Quiet.refl s
  · unfold routePcr
    split
    · exact Quiet.refl s
    · exact quiet_setPcr _ _ s
  · exact hsec
  · exact hsec
  · exact hsec

theorem quiet_route (u : RouteUnit) (s : State) : Quiet s (route u s) := by
  unfold route
  refine Quiet.trans ?_ (quiet_routeBuilt u _)
  split
  · exact quiet_setSlot _ _ s
  · exact Quiet.refl s

/-- PACKET writes the tables and appends events; nothing else (R159, R394). -/
theorem quiet_packet (p : Bytes) (s : State) : Quiet s (packet p s) := by
  unfold packet
  simp only
  split
  · exact quiet_raise rfl s
  · split
    · exact quiet_route _ s
    · split
      · unfold adaptPacket
        split
        · exact quiet_raise rfl s
        · exact quiet_route _ s
      · unfold adaptPayloadPacket
        split
        · exact quiet_raise rfl s
        · exact quiet_route _ s

/-! ## The framing loop -/

/-- What a push can do: `PKTBUF`, the tables, the events, and, when synchronisation is lost, the fatal latch. -/
structure Pushed (s t : State) : Prop where
  frame : demuxFrame s t
  events : eventsGrow s t
  mode : t.mode = s.mode ∧ t.fatalCode = s.fatalCode ∨ t.mode = .fatal ∧ t.fatalCode = 2#8 ∧ t.pktbuf = []

theorem Pushed.refl (s : State) : Pushed s s :=
  ⟨⟨rfl, rfl, rfl, rfl, rfl, rfl, rfl, rfl, rfl, rfl⟩, eventsGrow_refl s, .inl ⟨rfl, rfl⟩⟩

theorem demuxFrame_trans {s t u : State} (h₁ : demuxFrame s t) (h₂ : demuxFrame t u) : demuxFrame s u := by
  obtain ⟨a, b, c, d, e, f, g, h, i, j⟩ := h₁
  obtain ⟨a', b', c', d', e', f', g', h', i', j'⟩ := h₂
  exact ⟨a'.trans a, b'.trans b, c'.trans c, d'.trans d, e'.trans e, f'.trans f, g'.trans g, h'.trans h, i'.trans i,
    j'.trans j⟩

/-- One push-like change that stays out of FATAL, then another. -/
theorem Pushed.trans {s t u : State} (h₁ : Pushed s t) (hm : t.mode = s.mode) (hc : t.fatalCode = s.fatalCode)
    (h₂ : Pushed t u) : Pushed s u := by
  refine ⟨demuxFrame_trans h₁.frame h₂.frame, eventsGrow_trans h₁.events h₂.events, ?_⟩
  rcases h₂.mode with h | h
  · exact .inl ⟨h.1.trans hm, h.2.trans hc⟩
  · exact .inr h

theorem Quiet.pushed {s t : State} (h : Quiet s t) : Pushed s t :=
  ⟨⟨h.params, h.cfg, h.rtpLast, h.fHi, h.fNext, h.fStore, h.fPar, h.br, h.result, h.inbox⟩, h.events,
    .inl ⟨h.mode, h.fatalCode⟩⟩

theorem pushed_pktbuf (b : Bytes) (s : State) : Pushed s { s with pktbuf := b } :=
  ⟨⟨rfl, rfl, rfl, rfl, rfl, rfl, rfl, rfl, rfl, rfl⟩, ⟨[], by simp⟩, .inl ⟨rfl, rfl⟩⟩

/-- What one resynchronisation can do; where the loop goes on, the device is not FATAL through it (R155, R156). -/
theorem resync_spec (s : State) :
    Pushed s (resync s).1 ∧
      ((resync s).2 = true → (resync s).1.mode = s.mode ∧ (resync s).1.fatalCode = s.fatalCode) := by
  unfold resync
  split
  · exact ⟨Pushed.refl s, by simp⟩
  · next k _ =>
    have hq : Quiet _ (raise (.x01 k) { s with pktbuf := s.pktbuf.drop k }) := quiet_raise rfl _
    exact ⟨(pushed_pktbuf (s.pktbuf.drop k) s).trans rfl rfl hq.pushed, fun _ => ⟨hq.mode, hq.fatalCode⟩⟩
  · refine ⟨⟨⟨rfl, rfl, rfl, rfl, rfl, rfl, rfl, rfl, rfl, rfl⟩, ⟨[.exn .x02], rfl⟩, .inr ⟨rfl, rfl, rfl⟩⟩, by simp⟩

/-- What the framing loop can do (R151). -/
theorem pushed_frameLoop (n : Nat) (s : State) : Pushed s (frameLoop n s) := by
  induction n generalizing s with
  | zero => exact Pushed.refl s
  | succ n ih =>
    unfold frameLoop
    split
    · exact Pushed.refl s
    · split
      · exact Pushed.refl s
      · split
        · split
          · exact Pushed.refl s
          · have hq := quiet_packet (s.pktbuf.take Config.tsPkt) { s with pktbuf := s.pktbuf.drop Config.tsPkt }
            exact ((pushed_pktbuf (s.pktbuf.drop Config.tsPkt) s).trans rfl rfl hq.pushed).trans hq.mode hq.fatalCode (ih _)
        · have hr := resync_spec s
          split
          · next s' h =>
            rw [h] at hr
            exact hr.1.trans (hr.2 rfl).1 (hr.2 rfl).2 (ih _)
          · next s' h => rw [h] at hr; exact hr.1

/-- What `DEMUX.PUSH` can do (R150, R151). -/
theorem pushed_demuxPush (b : Bytes) (s : State) : Pushed s (demuxPush b s) :=
  (pushed_pktbuf (s.pktbuf ++ b) s).trans rfl rfl (pushed_frameLoop _ _)

end Sys2Proof.Machine
end

