-- ==== Sys2Proof/Laws/Fec.lean ====
section
/-! SUPPORT. What the operations of the RTP and FEC units can do, said once each: the gates, FEC.INSERT, one scan,
RECOVER, RTP.DELIVER, DELIVER, and the requests that are the unit of no row. -/

namespace Sys2Proof.Machine

/-! ## Gates and single-purpose runs -/

/-- A host command in FATAL (R370). -/
@[simp] theorem command_fatal {s : State} (h : s.mode = .fatal) (code : Byte) (legal : Bool) (act : State → State) :
    command code legal act s = .next s := by simp [command, h]

/-- A legal host command outside FATAL (R365). -/
@[simp] theorem command_legal {s : State} (h : s.mode ≠ .fatal) (code : Byte) (act : State → State) :
    command code true act s = .next (act s) := by simp [command, h]

/-- A refused host command (R369): X20 and nothing else. -/
@[simp] theorem command_refused {s : State} (h : s.mode ≠ .fatal) (code : Byte) (act : State → State) :
    command code false act s = .next (emit (.exn (.x20 code)) s) := by
  simp [command, h, raise_recoverable (x := .x20 code) rfl]

/-- A unit-level row in FATAL (R156, R396). -/
@[simp] theorem inUnit_fatal {s : State} (h : s.mode = .fatal) (act : State → State) : inUnit act s = .next s := by
  simp [inUnit, h]

/-- A unit-level row outside FATAL. -/
@[simp] theorem inUnit_live {s : State} (h : s.mode ≠ .fatal) (act : State → State) : inUnit act s = .next (act s) := by
  simp [inUnit, h]

/-- What `runParse` can do: the reader, the result and one X11 (R276). -/
theorem runParse_spec {α : Type} (src : Option Pid) (bytes : Bytes) (p : Parse α) (answer : α → UnitResult) (s : State) :
    runParse src bytes p answer s =
      match p { buf := bytes, pos := 0 } with
      | none => emit (.exn (.x11 src)) { s with br := { buf := [], pos := 0 }, result := .none }
      | some (a, br) => { s with br := br, result := answer a } := by
  unfold runParse brInit
  cases p { buf := bytes, pos := 0 } with
  | none => exact raise_recoverable rfl _
  | some r => rfl

/-- What the literal path's checks can do: they append events (R367). -/
theorem literalChecks_spec (b : Bytes) (s : State) : ∃ es, literalChecks b s = emitAll es s := by
  have hr : ∀ x : Exn, x.fatalCode = none → ∃ es, raise x s = emitAll es s := fun x h =>
    ⟨[.exn x], raise_recoverable h s⟩
  unfold literalChecks
  simp only
  repeat' split
  all_goals first | exact hr _ rfl | exact ⟨_, rfl⟩

/-- What a section handed to its filter or to the literal path can do. -/
theorem quiet_runSection (p : Option Pid) (sec : Bytes) (s : State) : Quiet s (runSection p sec s) := by
  unfold runSection
  cases p with
  | none =>
    obtain ⟨es, h⟩ := literalChecks_spec sec s
    simp only [h]; exact quiet_emitAll es s
  | some q =>
    simp only
    split
    · exact Quiet.refl s
    · split
      · exact quiet_raise rfl s
      · exact quiet_complete q sec s

/-! ## FEC.INSERT (R324) -/

/-- Only `F_HI`, `F_NEXT` and `F_STORE` differ, and `F_NEXT` only where no packet had arrived. -/
structure Stored (s t : State) : Prop where
  rest : t = { s with fHi := t.fHi, fNext := t.fNext, fStore := t.fStore }
  next : s.fHi ≠ none → t.fNext = s.fNext
  some : s.fHi ≠ none → t.fHi ≠ none

/-- The last lines of FEC.INSERT write `F_STORE` alone. -/
theorem fecStore_spec (hi m : SeqNum) (p : Bytes) (s : State) :
    (fecStore hi m p s).1 = { s with fStore := (fecStore hi m p s).1.fStore } := by
  unfold fecStore
  split <;> rfl

/-- What FEC.INSERT can do. -/
theorem fecInsert_spec (m : SeqNum) (p : Bytes) (s : State) : Stored s (fecInsert m p s).1 := by
  have hid : Stored s s := ⟨rfl, fun _ => rfl, fun h => h⟩
  unfold fecInsert
  split
  · next h =>
    rw [fecStore_spec]
    exact ⟨rfl, fun hn => absurd h hn, fun hn => absurd h hn⟩
  · split
    · rw [fecStore_spec]; exact ⟨rfl, fun _ => rfl, fun _ => by simp⟩
    · split
      · rw [fecStore_spec]; exact ⟨rfl, fun _ => rfl, fun h => h⟩
      · exact hid

/-! ## RECOVER (R330, R336) -/

/-- One scan keeps a sublist of the records, and a hit uses one up (R455). -/
theorem scan_spec (p : Config.Params) (hi : SeqNum) (store : List (Nat × Bytes)) (rs : List ParityRec) :
    (scan p hi store rs).keep.Sublist rs ∧
      ((scan p hi store rs).hit ≠ none → (scan p hi store rs).keep.length < rs.length) := by
  induction rs with
  | nil => simp [scan]
  | cons r rest ih =>
    have hskip : (scan p hi store rest).keep.Sublist (r :: rest) ∧
        ((scan p hi store rest).hit ≠ none → (scan p hi store rest).keep.length < (r :: rest).length) :=
      ⟨ih.1.trans (List.sublist_cons_self r rest), fun h => Nat.lt_succ_of_lt (ih.2 h)⟩
    unfold scan
    split
    · exact hskip
    · split
      · exact hskip
      · split
        · exact hskip
        · exact ⟨List.sublist_cons_self r rest, fun _ => Nat.lt_succ_self _⟩
      · exact ⟨ih.1.cons_cons r, fun h => Nat.succ_lt_succ (ih.2 h)⟩

/-- Only `F_HI`, `F_STORE`, `F_PAR` and the event stream differ, and events are only appended. -/
structure Recovered (s t : State) : Prop where
  rest : t = { s with fHi := t.fHi, fStore := t.fStore, fPar := t.fPar, events := t.events }
  events : eventsGrow s t
  par : t.fPar.Sublist s.fPar

/-- What RECOVER can do. -/
theorem recover_spec (n : Nat) (s : State) : Recovered s (recover n s) := by
  induction n generalizing s with
  | zero => exact ⟨rfl, eventsGrow_refl s, List.Sublist.refl _⟩
  | succ n ih =>
    unfold recover
    split
    · exact ⟨rfl, eventsGrow_refl s, List.Sublist.refl _⟩
    · next hi hhi =>
      have hsub := (scan_spec s.params hi s.fStore s.fPar).1
      generalize scan s.params hi s.fStore s.fPar = r at hsub
      simp only
      split
      · exact ⟨rfl, ⟨_, rfl⟩, hsub⟩
      · next m pay _ =>
        have hst := fecInsert_spec m pay (emitAll (r.failed.map fun q => .exn (.x24 q)) { s with fPar := r.keep })
        have hrec := ih (fecInsert m pay (emitAll (r.failed.map fun q => .exn (.x24 q)) { s with fPar := r.keep })).1
        generalize fecInsert m pay _ = w at hst hrec
        have hn := hst.next (by simp [emitAll, hhi])
        have e := hst.rest
        rw [hn] at e
        refine ⟨?_, ?_, ?_⟩
        · rw [hrec.rest, e]; rfl
        · refine eventsGrow_trans ⟨r.failed.map fun q => .exn (.x24 q), ?_⟩ hrec.events
          rw [e]; rfl
        · refine hrec.par.trans ?_
          rw [e]; exact hsub

/-! ## RTP.DELIVER and DELIVER (R306, R337) -/

/-- Delivery leaves the parameters, `CFG`, `F_HI`, `F_STORE`, `F_PAR`, the reader, its result and the input as they
are; it appends events, and leaves the mode unless synchronisation is lost. -/
structure Delivered (s t : State) : Prop where
  params : t.params = s.params
  cfg : t.cfg = s.cfg
  fHi : t.fHi = s.fHi
  fStore : t.fStore = s.fStore
  fPar : t.fPar = s.fPar
  br : t.br = s.br
  result : t.result = s.result
  inbox : t.inbox = s.inbox
  events : eventsGrow s t
  mode : t.mode = s.mode ∧ t.fatalCode = s.fatalCode ∨ t.mode = .fatal ∧ t.fatalCode = 2#8 ∧ t.pktbuf = []

theorem Delivered.refl (s : State) : Delivered s s :=
  ⟨rfl, rfl, rfl, rfl, rfl, rfl, rfl, rfl, eventsGrow_refl s, .inl ⟨rfl, rfl⟩⟩

/-- One delivery that stays out of FATAL, then another. -/
theorem Delivered.trans {s t u : State} (h₁ : Delivered s t) (hm : t.mode = s.mode ∧ t.fatalCode = s.fatalCode)
    (h₂ : Delivered t u) : Delivered s u :=
  ⟨h₂.params.trans h₁.params, h₂.cfg.trans h₁.cfg, h₂.fHi.trans h₁.fHi, h₂.fStore.trans h₁.fStore,
    h₂.fPar.trans h₁.fPar, h₂.br.trans h₁.br, h₂.result.trans h₁.result, h₂.inbox.trans h₁.inbox,
    eventsGrow_trans h₁.events h₂.events, h₂.mode.imp (fun h => ⟨h.1.trans hm.1, h.2.trans hm.2⟩) id⟩

/-- What RTP.DELIVER can do; `F_NEXT` is not touched and `RTP_LAST` is the number delivered. -/
theorem rtpDeliver_spec (q : SeqNum) (p : Bytes) (s : State) :
    Delivered s (rtpDeliver q p s) ∧ (rtpDeliver q p s).fNext = s.fNext ∧ (rtpDeliver q p s).rtpLast = some q := by
  have key : ∀ s' : State, Quiet s s' →
      Delivered s (demuxPush p { s' with rtpLast := some q }) ∧ (demuxPush p { s' with rtpLast := some q }).fNext = s.fNext ∧
        (demuxPush p { s' with rtpLast := some q }).rtpLast = some q := by
    intro s' hq
    have hp := pushed_demuxPush p { s' with rtpLast := some q }
    obtain ⟨hpa, hcfg, hlast, hhi, hnext, hst, hpar, hbr, hres, hin⟩ := hp.frame
    exact ⟨⟨hpa.trans hq.params, hcfg.trans hq.cfg, hhi.trans hq.fHi, hst.trans hq.fStore, hpar.trans hq.fPar,
      hbr.trans hq.br, hres.trans hq.result, hin.trans hq.inbox, eventsGrow_trans hq.events hp.events,
      hp.mode.imp (fun h => ⟨h.1.trans hq.mode, h.2.trans hq.fatalCode⟩) id⟩, hnext.trans hq.fNext, hlast⟩
  unfold rtpDeliver
  split
  · exact key s (Quiet.refl s)
  · split
    · exact key s (Quiet.refl s)
    · exact key _ (quiet_raise rfl s)

/-- What DELIVER can do. -/
theorem deliver_spec (n : Nat) (s : State) : Delivered s (deliver n s) := by
  induction n generalizing s with
  | zero => exact Delivered.refl s
  | succ n ih =>
    unfold deliver
    split
    · next q hi _ _ =>
      split
      · next pay _ =>
        have hd := (rtpDeliver_spec q pay { s with fNext := some (q + 1#16) }).1
        have hs : Delivered s { s with fNext := some (q + 1#16) } :=
          ⟨rfl, rfl, rfl, rfl, rfl, rfl, rfl, rfl, ⟨[], by simp⟩, .inl ⟨rfl, rfl⟩⟩
        have hsd := hs.trans ⟨rfl, rfl⟩ hd
        simp only
        split
        · exact hsd
        · next hm => exact hsd.trans (hsd.mode.resolve_right fun h => hm h.1) (ih _)
      · split
        · have hs : Delivered s { s with fNext := some (q + 1#16) } :=
            ⟨rfl, rfl, rfl, rfl, rfl, rfl, rfl, rfl, ⟨[], by simp⟩, .inl ⟨rfl, rfl⟩⟩
          exact hs.trans ⟨rfl, rfl⟩ (ih _)
        · exact Delivered.refl s
    · exact Delivered.refl s

/-! ## Requests of no row (log entry 9) -/

/-- Whether a request is a main datagram, which `offTable` hands to DGRAM.MAIN. -/
def onMainPort : Request → Bool
  | .mainDgram _ | .fec .main _ => true
  | .host _ _ | .cfg _ | .ts _ | .route _ | .sec _ _ | .splice _ _ _ | .insert _ _ | .duration _ _ | .spliceTime _ _
  | .descriptor _ _ | .pmtDescriptor _ _ | .rtp _ _ | .fec .col _ | .fec .row _ | .brInit _ _ | .brRead _ | .brSkip _
  | .brPos | .brAligned => false

/-- A request of no row ends in a next state: it never stops the device. -/
theorem offTable_next (r : Request) (s : State) : ∃ t, offTable r s = .next t := by
  unfold offTable
  split <;> exact ⟨_, rfl⟩

/-- Nothing is processed in FATAL (R156, R370, R396). -/
theorem offTable_fatal {s : State} (h : s.mode = .fatal) (r : Request) : offTable r s = .next s := by
  unfold offTable
  split <;> first | exact inUnit_fatal h _ | exact command_fatal h _ _ _ | rfl

theorem quiet_feedLoose (p : Pid) (b : Bytes) (s : State) : Quiet s (feedLoose p b s) := by
  unfold feedLoose
  split
  · exact Quiet.refl s
  · exact quiet_feed _ p _ b true s

/-- What a request of no row can do, a main datagram apart, which is DGRAM.MAIN: a push, the reader with its answer, and
nothing else. -/
theorem offTable_spec {r : Request} (h : onMainPort r = false) (s : State) :
    ∃ t, offTable r s = .next t ∧ Pushed s { t with br := s.br, result := s.result } := by
  by_cases hm : s.mode = .fatal
  · exact ⟨s, offTable_fatal hm r, Pushed.refl s⟩
  have pure : ∀ {t : State}, Pushed s t → Pushed s { t with br := s.br, result := s.result } := fun {t} hp =>
    ⟨⟨hp.frame.1, hp.frame.2.1, hp.frame.2.2.1, hp.frame.2.2.2.1, hp.frame.2.2.2.2.1, hp.frame.2.2.2.2.2.1,
      hp.frame.2.2.2.2.2.2.1, rfl, rfl, hp.frame.2.2.2.2.2.2.2.2.2⟩, hp.events, hp.mode⟩
  have unit : ∀ {act : State → State}, Pushed s (act s) →
      ∃ t, inUnit act s = .next t ∧ Pushed s { t with br := s.br, result := s.result } := fun hp =>
    ⟨_, inUnit_live hm _, pure hp⟩
  have parse : ∀ {α : Type} (src : Option Pid) (b : Bytes) (p : Parse α) (answer : α → UnitResult),
      ∃ t, inUnit (runParse src b p answer) s = .next t ∧ Pushed s { t with br := s.br, result := s.result } := by
    intro α src b p answer
    refine ⟨_, inUnit_live hm _, ?_⟩
    rw [runParse_spec]
    split
    · exact ⟨⟨rfl, rfl, rfl, rfl, rfl, rfl, rfl, rfl, rfl, rfl⟩, ⟨[.exn (.x11 src)], rfl⟩, .inl ⟨rfl, rfl⟩⟩
    · exact ⟨⟨rfl, rfl, rfl, rfl, rfl, rfl, rfl, rfl, rfl, rfl⟩, eventsGrow_refl s, .inl ⟨rfl, rfl⟩⟩
  unfold offTable
  split
  · rw [command_refused hm]
    exact ⟨_, rfl, pure (quiet_emitAll _ s).pushed⟩
  · exact unit (pushed_demuxPush _ s)
  · exact unit (quiet_route _ s).pushed
  · obtain ⟨es, he⟩ := literalChecks_spec _ s
    exact unit (he ▸ (quiet_emitAll es s).pushed)
  · exact unit (quiet_feedLoose _ _ s).pushed
  · exact unit (quiet_emitAll _ s).pushed
  · exact parse _ _ _ _
  · exact parse _ _ _ _
  · exact parse _ _ _ _
  · exact unit (quiet_emitAll _ s).pushed
  · refine ⟨_, inUnit_live hm _, ?_⟩
    unfold skipPmtDescriptor
    split
    · exact pure (Pushed.refl s)
    · exact pure (quiet_raise rfl s).pushed
    · split
      · exact pure (quiet_raise rfl s).pushed
      · exact Pushed.refl s
  · cases h
  · cases h
  all_goals exact ⟨s, rfl, pure (Pushed.refl s)⟩

end Sys2Proof.Machine
end

