-- ==== Sys2Proof/Laws/PerInstr.lean ====
section
/-! SUPPORT. Facts made per instruction, one lemma per constructor of `Instr`: every row is selected by some state of
the device (R125 items 3 and 7), so no row of the opcode table is out of the decoder's reach. -/

namespace Sys2Proof.Laws.Selectable

/-- Some form of the filter slot and some `CFG` select the instruction. -/
def Statement (i : Instr) : Prop := ∃ k : Keys, selects k i = true

theorem reset : Statement .reset := ⟨⟨.empty, 0#8⟩, rfl⟩
theorem config (cfg : Byte) : Statement (.config cfg) := ⟨⟨.empty, 0#8⟩, rfl⟩
theorem push (bytes : Bytes) : Statement (.push bytes) := ⟨⟨.empty, 0#8⟩, rfl⟩
theorem eof : Statement .eof := ⟨⟨.empty, 0#8⟩, rfl⟩
theorem dgramMain (g : Bytes) : Statement (.dgramMain g) := ⟨⟨.empty, 0#8⟩, rfl⟩
theorem dgramCol (g : Bytes) : Statement (.dgramCol g) := ⟨⟨.empty, 0#8⟩, rfl⟩
theorem dgramRow (g : Bytes) : Statement (.dgramRow g) := ⟨⟨.empty, 0#8⟩, rfl⟩
theorem literalSection (buf : Bytes) : Statement (.literalSection buf) := ⟨⟨.empty, 0#8⟩, rfl⟩
theorem rxerr : Statement .rxerr := ⟨⟨.empty, 0#8⟩, rfl⟩
theorem hostIllegal (code : Byte) (operand : Bytes) : Statement (.hostIllegal code operand) := ⟨⟨.empty, 0#8⟩, rfl⟩
theorem configFile : Statement .configFile := ⟨⟨.empty, 0#8⟩, rfl⟩
theorem configNetRaw : Statement .configNetRaw := ⟨⟨.empty, 0#8⟩, rfl⟩
theorem configSection : Statement .configSection := ⟨⟨.empty, 0#8⟩, rfl⟩
theorem configNetRtp : Statement .configNetRtp := ⟨⟨.empty, 0#8⟩, rfl⟩
theorem configNetRtpFec : Statement .configNetRtpFec := ⟨⟨.empty, 0#8⟩, rfl⟩
theorem configIllegal (cfg : Byte) : Statement (.configIllegal cfg) := ⟨⟨.empty, 0#8⟩, rfl⟩
theorem tsPayload (h : TsHeader) (body : Bytes) : Statement (.tsPayload h body) := ⟨⟨.empty, 0#8⟩, rfl⟩
theorem tsAdapt (h : TsHeader) (body : Bytes) : Statement (.tsAdapt h body) := ⟨⟨.empty, 0#8⟩, rfl⟩
theorem tsAdaptPayload (h : TsHeader) (body : Bytes) : Statement (.tsAdaptPayload h body) := ⟨⟨.empty, 0#8⟩, rfl⟩
theorem tsAfcReserved (h : TsHeader) (body : Bytes) : Statement (.tsAfcReserved h body) := ⟨⟨.empty, 0#8⟩, rfl⟩
theorem tsNosync (bytes : Bytes) : Statement (.tsNosync bytes) := ⟨⟨.empty, 0#8⟩, rfl⟩
theorem routeEmpty (u : RouteUnit) : Statement (.routeEmpty u) := ⟨⟨.empty, 0#8⟩, by simp [selects]⟩
theorem routeNull (u : RouteUnit) : Statement (.routeNull u) := ⟨⟨.null, 0#8⟩, by simp [selects]⟩
theorem routePat (u : RouteUnit) : Statement (.routePat u) := ⟨⟨.pat, 0#8⟩, by simp [selects]⟩
theorem routePmt (programNumber : BitVec 16) (u : RouteUnit) : Statement (.routePmt programNumber u) := ⟨⟨.pmt programNumber, 0#8⟩, by simp [selects]⟩
theorem routeScte35 (elementaryPid pcrKey : Pid) (u : RouteUnit) : Statement (.routeScte35 elementaryPid pcrKey u) := ⟨⟨.scte35 elementaryPid pcrKey, 0#8⟩, by simp [selects]⟩
theorem routePcrwatch (pcrKey : Pid) (u : RouteUnit) : Statement (.routePcrwatch pcrKey u) := ⟨⟨.pcrWatch pcrKey, 0#8⟩, by simp [selects]⟩
theorem secPat (pid : Option Pid) (h : SectionHeader) (body : Bytes) : Statement (.secPat pid h body) := ⟨⟨.empty, 0#8⟩, rfl⟩
theorem secPmt (pid : Option Pid) (h : SectionHeader) (body : Bytes) : Statement (.secPmt pid h body) := ⟨⟨.empty, 0#8⟩, rfl⟩
theorem secSplice (pid : Option Pid) (h : SectionHeader) (body : Bytes) : Statement (.secSplice pid h body) := ⟨⟨.empty, 0#8⟩, rfl⟩
theorem secStuffing (pid : Option Pid) (rest : Bytes) : Statement (.secStuffing pid rest) := ⟨⟨.empty, 0#8⟩, rfl⟩
theorem secOther (pid : Option Pid) (tableId : Byte) (h : SectionHeader) (body : Bytes) : Statement (.secOther pid tableId h body) := ⟨⟨.empty, 0#8⟩, rfl⟩
theorem spliceEncrypted (commandType : Byte) (u : SpliceUnit) : Statement (.spliceEncrypted commandType u) := ⟨⟨.empty, 0#8⟩, rfl⟩
theorem spliceNull (u : SpliceUnit) : Statement (.spliceNull u) := ⟨⟨.empty, 0#8⟩, rfl⟩
theorem spliceSchedule (u : SpliceUnit) : Statement (.spliceSchedule u) := ⟨⟨.empty, 0#8⟩, rfl⟩
theorem spliceInsert (u : SpliceUnit) : Statement (.spliceInsert u) := ⟨⟨.empty, 0#8⟩, rfl⟩
theorem timeSignal (u : SpliceUnit) : Statement (.timeSignal u) := ⟨⟨.empty, 0#8⟩, rfl⟩
theorem bandwidthReservation (u : SpliceUnit) : Statement (.bandwidthReservation u) := ⟨⟨.empty, 0#8⟩, rfl⟩
theorem privateCommand (u : SpliceUnit) : Statement (.privateCommand u) := ⟨⟨.empty, 0#8⟩, rfl⟩
theorem spliceReserved (tag : Byte) (u : SpliceUnit) : Statement (.spliceReserved tag u) := ⟨⟨.empty, 0#8⟩, rfl⟩
theorem insertCancel (src : Option Pid) (eventId : BitVec 32) (reserved : BitVec 7) (rest : Bytes) : Statement (.insertCancel src eventId reserved rest) := ⟨⟨.empty, 0#8⟩, rfl⟩
theorem insertProgramTimed (src : Option Pid) (durationFlag : BitVec 1) (u : InsertUnit) : Statement (.insertProgramTimed src durationFlag u) := ⟨⟨.empty, 0#8⟩, rfl⟩
theorem insertProgramImmediate (src : Option Pid) (durationFlag : BitVec 1) (u : InsertUnit) : Statement (.insertProgramImmediate src durationFlag u) := ⟨⟨.empty, 0#8⟩, rfl⟩
theorem insertComponentTimed (src : Option Pid) (durationFlag : BitVec 1) (u : InsertUnit) : Statement (.insertComponentTimed src durationFlag u) := ⟨⟨.empty, 0#8⟩, rfl⟩
theorem insertComponentImmediate (src : Option Pid) (durationFlag : BitVec 1) (u : InsertUnit) : Statement (.insertComponentImmediate src durationFlag u) := ⟨⟨.empty, 0#8⟩, rfl⟩
theorem insertDuration (src : Option Pid) (programSplice spliceImmediate : BitVec 1) (u : InsertUnit) : Statement (.insertDuration src programSplice spliceImmediate u) := ⟨⟨.empty, 0#8⟩, rfl⟩
theorem spliceTimeSpecified (src : Option Pid) (reserved : BitVec 6) (ptsMsb : BitVec 1) (rest : Bytes) : Statement (.spliceTimeSpecified src reserved ptsMsb rest) := ⟨⟨.empty, 0#8⟩, rfl⟩
theorem spliceTimeUnspecified (src : Option Pid) (reserved : BitVec 7) (rest : Bytes) : Statement (.spliceTimeUnspecified src reserved rest) := ⟨⟨.empty, 0#8⟩, rfl⟩
theorem spliceDescriptor (src : Option Pid) (tag len : Byte) (rest : Bytes) : Statement (.spliceDescriptor src tag len rest) := ⟨⟨.empty, 0#8⟩, rfl⟩
theorem pmtRegistrationCuei (pid : Pid) (len : Byte) (rest : Bytes) : Statement (.pmtRegistrationCuei pid len rest) := ⟨⟨.empty, 0#8⟩, rfl⟩
theorem mainRaw (g : Bytes) : Statement (.mainRaw g) := ⟨⟨.empty, 0x02#8⟩, rfl⟩
theorem mainRtp (g : Bytes) : Statement (.mainRtp g) := ⟨⟨.empty, 0x0A#8⟩, rfl⟩
theorem mainRtpFec (g : Bytes) : Statement (.mainRtpFec g) := ⟨⟨.empty, 0x0E#8⟩, rfl⟩
theorem rtpV2 (port : Port) (h : RtpHeader) (payload : Bytes) : Statement (.rtpV2 port h payload) := ⟨⟨.empty, 0#8⟩, rfl⟩
theorem rtpMalformed (port : Port) (g : Bytes) : Statement (.rtpMalformed port g) := ⟨⟨.empty, 0#8⟩, rfl⟩
theorem fecCol (u : FecUnit) : Statement (.fecCol u) := ⟨⟨.empty, 0#8⟩, rfl⟩
theorem fecRow (u : FecUnit) : Statement (.fecRow u) := ⟨⟨.empty, 0#8⟩, rfl⟩
theorem fecMalformed (port : Port) (g : Bytes) : Statement (.fecMalformed port g) := ⟨⟨.empty, 0#8⟩, rfl⟩
theorem brInit (buf : Bytes) (p : Nat) : Statement (.brInit buf p) := ⟨⟨.empty, 0#8⟩, rfl⟩
theorem brRead (n : Fin 65) : Statement (.brRead n) := ⟨⟨.empty, 0#8⟩, rfl⟩
theorem brSkip (n : Nat) : Statement (.brSkip n) := ⟨⟨.empty, 0#8⟩, rfl⟩
theorem brPos : Statement .brPos := ⟨⟨.empty, 0#8⟩, rfl⟩
theorem brAligned : Statement .brAligned := ⟨⟨.empty, 0#8⟩, rfl⟩

end Sys2Proof.Laws.Selectable
end

