-- ==== Sys2Proof/Tests/Slice0.lean ====
section
/-! SUPPORT. The model's own tests: ill-formed terms refused, words written out from the spec's layouts decoded, one
step on small states with the expected values of spec/95_test_vectors.md, and a witness for the hypotheses of each
statement. -/

namespace Sys2Proof.Tests

set_option Elab.async false

open Sys2Proof Sys2Proof.Machine

/-! ## Helpers -/

/-- The `n` bytes of a number, most significant first. -/
def bytesOf : Nat → Nat → Bytes
  | 0, _ => []
  | n + 1, w => BitVec.ofNat 8 (w / 256 ^ n) :: bytesOf n w

/-- `n` bytes of one value. -/
def fill (n : Nat) (b : Byte) : Bytes := List.replicate n b

/-- A state in a mode with a CFG, every other element at its reset value. -/
def inMode (m : Mode) (cfg : Byte) : State := { State.reset with mode := m, cfg := cfg }

/-- FILE mode. -/
def fileState : State := inMode .file 0x01#8

/-- NET mode, raw UDP. -/
def rawState : State := inMode .net 0x02#8

/-- NET mode, RTP. -/
def rtpState : State := inMode .net 0x0A#8

/-- NET mode, RTP with FEC. -/
def fecState : State := inMode .net 0x0E#8

/-- SECTION mode. -/
def sectionState : State := inMode .sec 0x03#8

/-- The fatal latch after X19. -/
def fatalState : State := { inMode .fatal 0x0E#8 with fatalCode := 19#8 }

/-- FILE mode with one filter. -/
def withSlot (pid : Nat) (v : Slot) : State := { fileState with ft := [(pid, v)] }

/-- State PSI0 of 95_test_vectors.md: the PAT and PMT taken. -/
def psi0 : State :=
  { fileState with
    ft := [(0, .pat { lastCc := some 0#4, acc := none }), (0x100, .pmt 1#16 { lastCc := some 0#4, acc := none }),
      (0x101, .pcrWatch 0x100#13), (0x102, .scte35 0x102#13 0x100#13 .fresh)]
    pcrreg := [(0x100, .noPcr)] }

/-- The state after one step on one request. -/
def after (s : State) (r : Request) : Option State :=
  match step { s with inbox := [r] } with
  | .next t => some t
  | .fault _ => none
  | .refused _ => none

/-- The events of one step. -/
def eventsAfter (s : State) (r : Request) : Option (List Event) := (after s r).map State.events

/-- Keys that select nothing special. -/
def noKeys : Keys := { form := .empty, cfg := 0#8 }

/-- The PAT of 95_test_vectors.md section 3. -/
def patSec : Bytes := bytesOf 16 0x00b00d0001c100000001e100e8f95e7d

/-- The PMT of PKT_PMT. -/
def pmtSec : Bytes := bytesOf 32 0x02b01d0001c10000e101f0001be101f00086e102f006050443554549f5692c6f

/-- W1: a splice_null section. -/
def nullSec : Bytes := bytesOf 20 0xfc301100000000000000fff0000000007a4fbfff

/-- W2: a splice_insert section. -/
def insertSec : Bytes :=
  bytesOf 50 0xfc302f000000000000fffff014054800008f7feffe7369c02efe0052ccf500000000000a0008435545490000013562dba30a

/-- TSIG: a time_signal section. -/
def tsigSec : Bytes := bytesOf 25 0xfc3016000000000000fffff00506ff000000100000851d5957

/-! ## Well-formedness: one refused term for each check -/

theorem test_wf_host_illegal_code : (Instr.hostIllegal 0x08#8 []).wf = false ∧ (Instr.hostIllegal 0x09#8 []).wf = true := by
  decide

theorem test_wf_config_illegal_operand : (Instr.configIllegal 0x0A#8).wf = false ∧ (Instr.configIllegal 0x0B#8).wf = true := by
  decide

/-- The header `47 5F FE 9A` up to its adaptation_field_control: PUSI 1, PID 0x1FFE, scrambling 2, CC 10. -/
def packetHeader : TsHeader :=
  { transportError := 0#1, pusi := 1#1, priority := 0#1, pid := 0x1FFE#13, scrambling := 2#2, cc := 10#4 }

theorem test_wf_packet_length :
    (Instr.tsPayload packetHeader (fill 183 0#8)).wf = false ∧ (Instr.tsAdapt packetHeader (fill 185 0#8)).wf = false ∧
      (Instr.tsAdaptPayload packetHeader []).wf = false ∧ (Instr.tsAfcReserved packetHeader (fill 183 0#8)).wf = false := by
  decide +kernel

theorem test_wf_nosync_head : (Instr.tsNosync []).wf = false ∧ (Instr.tsNosync [0x47#8]).wf = false := by decide

/-- A routed packet with a payload and no PCR. -/
def routed (pid : Pid) (pusi : BitVec 1) (cc : Cc) (d : Bytes) : RouteUnit :=
  { pid := pid, pusi := pusi, cc := cc, pcr := none, payload := some d }

theorem test_wf_routed_payload :
    let u := fun d => routed 0x102#13 1#1 0#4 d
    (Instr.routeEmpty (u [])).wf = false ∧ (Instr.routeNull (u (fill 185 0#8))).wf = false ∧
      (Instr.routePat (u [])).wf = false ∧ (Instr.routePmt 1#16 (u [])).wf = false ∧
      (Instr.routeScte35 1#13 1#13 (u [])).wf = false ∧ (Instr.routePcrwatch 1#13 (u (fill 185 0#8))).wf = false := by
  decide +kernel

theorem test_wf_section_length :
    (Instr.secPat none (sectionFields 0xB001#16) []).wf = false ∧
      (Instr.secPmt none (sectionFields 0xB001#16) []).wf = false ∧
      (Instr.secSplice none (sectionFields 0xB001#16) []).wf = false ∧
      (Instr.secOther none 0x70#8 (sectionFields 0xB001#16) []).wf = false ∧
      (Instr.secPat none (sectionFields 0xBFFE#16) []).wf = true := by decide

theorem test_wf_named_table_id :
    (Instr.secOther none 0x02#8 (sectionFields 0xB000#16) []).wf = false ∧
      (Instr.secOther none 0xFF#8 (sectionFields 0xB000#16) []).wf = false := by decide

theorem test_wf_named_command (u : SpliceUnit) :
    (Instr.spliceReserved 0x06#8 u).wf = false ∧ (Instr.spliceReserved 0x01#8 u).wf = true := ⟨rfl, rfl⟩

theorem test_wf_registration_length : (Instr.pmtRegistrationCuei 1#13 3#8 []).wf = false := by decide

theorem test_wf_rtp_malformed : (Instr.rtpMalformed .main (0x80#8 :: fill 11 0#8)).wf = false := by decide

/-- A parity unit: SNBase 202, offset 1, NA 2, as in P6. -/
def parityUnit : FecUnit :=
  { rtp := { marker := 0#1, payloadType := 96#7, seq := 1#16, timestamp := 0#32, ssrc := 0#32 }
    snbase := 202#16, lenrec := 0#16, extension := 1#1, ptRecovery := 0#7, mask := 0#24, tsRecovery := 0#32
    n := 0#1, d := 1#1, fecType := 0#3, index := 0#3, offset := 1#8, na := 2#8, snbaseExt := 0#8, payload := [] }

theorem test_wf_parity_fields :
    (Instr.fecCol { parityUnit with offset := 0#8 }).wf = false ∧ (Instr.fecRow { parityUnit with na := 0#8 }).wf = false := by
  decide

theorem test_wf_fec_malformed :
    (Instr.fecMalformed .main []).wf = false ∧ (Instr.fecMalformed .col (fecBytes parityUnit)).wf = false := by decide

theorem test_wf_bit_position : (Instr.brInit [0#8] 9).wf = false ∧ (Instr.brInit [0#8] 8).wf = true := by decide

/-! ## Decoding: one word for every constructor, written from 30_encoding.md -/

theorem test_decode_host_codes :
    decode noKeys (.host 0x00#8 []) = .instr .reset ∧
      decode noKeys (.host 0x01#8 [0x0A#8]) = .instr (.config 0x0A#8) ∧
      decode noKeys (.host 0x02#8 [0x47#8]) = .instr (.push [0x47#8]) ∧
      decode noKeys (.host 0x03#8 []) = .instr .eof ∧
      decode noKeys (.host 0x04#8 [0x80#8]) = .instr (.dgramMain [0x80#8]) ∧
      decode noKeys (.host 0x05#8 []) = .instr (.dgramCol []) ∧
      decode noKeys (.host 0x06#8 []) = .instr (.dgramRow []) ∧
      decode noKeys (.host 0x07#8 [0xFC#8]) = .instr (.literalSection [0xFC#8]) ∧
      decode noKeys (.host 0x08#8 []) = .instr .rxerr ∧
      decode noKeys (.host 0xFF#8 [0x01#8]) = .instr (.hostIllegal 0xFF#8 [0x01#8]) := by decide

theorem test_decode_config_operands :
    decode noKeys (.cfg 0x01#8) = .instr .configFile ∧ decode noKeys (.cfg 0x02#8) = .instr .configNetRaw ∧
      decode noKeys (.cfg 0x03#8) = .instr .configSection ∧ decode noKeys (.cfg 0x0A#8) = .instr .configNetRtp ∧
      decode noKeys (.cfg 0x0E#8) = .instr .configNetRtpFec ∧
      decode noKeys (.cfg 0x06#8) = .instr (.configIllegal 0x06#8) := by decide

theorem test_decode_packets :
    decode noKeys (.ts (bytesOf 4 0x475FFE9A ++ fill 184 0#8)) = .instr (.tsPayload packetHeader (fill 184 0#8)) ∧
      decode noKeys (.ts (bytesOf 4 0x475FFEAA ++ fill 184 0#8)) = .instr (.tsAdapt packetHeader (fill 184 0#8)) ∧
      decode noKeys (.ts (bytesOf 4 0x475FFEBA ++ fill 184 0#8)) = .instr (.tsAdaptPayload packetHeader (fill 184 0#8)) ∧
      decode noKeys (.ts (bytesOf 4 0x475FFE8A ++ fill 184 0#8)) = .instr (.tsAfcReserved packetHeader (fill 184 0#8)) ∧
      decode noKeys (.ts [0x46#8, 0x47#8]) = .instr (.tsNosync [0x46#8, 0x47#8]) := by decide +kernel

theorem test_decode_filters :
    let u := routed 0x102#13 1#1 3#4 [0#8]
    let read := fun f => decode { form := f, cfg := 0#8 } (.route u)
    read .empty = .instr (.routeEmpty u) ∧ read .null = .instr (.routeNull u) ∧ read .pat = .instr (.routePat u) ∧
      read (.pmt 7#16) = .instr (.routePmt 7#16 u) ∧
      read (.scte35 0x102#13 0x100#13) = .instr (.routeScte35 0x102#13 0x100#13 u) ∧
      read (.pcrWatch 0x100#13) = .instr (.routePcrwatch 0x100#13 u) := by decide

theorem test_decode_sections :
    let h : SectionHeader := { syntaxIndicator := 1#1, privateIndicator := 0#1, reserved := 3#2, sectionLength := 2#12 }
    let read := fun t => decode noKeys (.sec none [t, 0xB0#8, 0x02#8, 0xAA#8, 0xBB#8])
    read 0x00#8 = .instr (.secPat none h [0xAA#8, 0xBB#8]) ∧ read 0x02#8 = .instr (.secPmt none h [0xAA#8, 0xBB#8]) ∧
      read 0xFC#8 = .instr (.secSplice none h [0xAA#8, 0xBB#8]) ∧
      read 0xFF#8 = .instr (.secStuffing none [0xB0#8, 0x02#8, 0xAA#8, 0xBB#8]) ∧
      read 0x01#8 = .instr (.secOther none 0x01#8 h [0xAA#8, 0xBB#8]) := by decide

/-- Every field a different value: encryption_algorithm 000101, pts_adjustment 0x123456789 and so on. -/
def spliceUnit : SpliceUnit :=
  { srcPid := none, pcr := none, tableId := 0xFC#8, common := sectionFields 0x3011#16, protocolVersion := 0x01#8
    encryptionAlgorithm := 5#6, ptsAdjustment := 0x123456789#33, cwIndex := 0xCC#8, tier := 0xABC#12
    commandLength := 0xFED#12, body := [0x77#8] }

theorem test_decode_splices :
    let read := fun (e ty : Byte) => decode noKeys (.splice none none
      [0xFC#8, 0x30#8, 0x11#8, 0x01#8, e, 0x23#8, 0x45#8, 0x67#8, 0x89#8, 0xCC#8, 0xAB#8, 0xCF#8, 0xED#8, ty, 0x77#8])
    read 0x8B#8 0x05#8 = .instr (.spliceEncrypted 0x05#8 spliceUnit) ∧ read 0x0B#8 0x00#8 = .instr (.spliceNull spliceUnit) ∧
      read 0x0B#8 0x04#8 = .instr (.spliceSchedule spliceUnit) ∧ read 0x0B#8 0x05#8 = .instr (.spliceInsert spliceUnit) ∧
      read 0x0B#8 0x06#8 = .instr (.timeSignal spliceUnit) ∧ read 0x0B#8 0x07#8 = .instr (.bandwidthReservation spliceUnit) ∧
      read 0x0B#8 0xFF#8 = .instr (.privateCommand spliceUnit) ∧
      read 0x0B#8 0x01#8 = .instr (.spliceReserved 0x01#8 spliceUnit) := by decide +kernel

theorem test_decode_inserts :
    let u : InsertUnit := { eventId := 0x12345678#32, reserved := 0x7E#7, networkIndicator := 1#1, reserved2 := 9#4, rest := [] }
    let read := fun f => decode noKeys (.insert none [0x12#8, 0x34#8, 0x56#8, 0x78#8, 0x7E#8, f])
    decode noKeys (.insert none [0x12#8, 0x34#8, 0x56#8, 0x78#8, 0xFE#8]) =
        .instr (.insertCancel none 0x12345678#32 0x7E#7 []) ∧
      read 0xE9#8 = .instr (.insertProgramTimed none 1#1 u) ∧ read 0xD9#8 = .instr (.insertProgramImmediate none 0#1 u) ∧
      read 0x89#8 = .instr (.insertComponentTimed none 0#1 u) ∧
      read 0xB9#8 = .instr (.insertComponentImmediate none 1#1 u) ∧
      decode noKeys (.duration none [0x12#8, 0x34#8, 0x56#8, 0x78#8, 0x7E#8, 0xE9#8]) =
        .instr (.insertDuration none 1#1 0#1 u) := by decide

theorem test_decode_splice_times :
    decode noKeys (.spliceTime none [0xFF#8, 0#8, 0#8, 0#8, 0x10#8]) =
        .instr (.spliceTimeSpecified none 0x3F#6 1#1 [0#8, 0#8, 0#8, 0x10#8]) ∧
      decode noKeys (.spliceTime none [0x7E#8]) = .instr (.spliceTimeUnspecified none 0x7E#7 []) := by decide

theorem test_decode_descriptors :
    decode noKeys (.descriptor none [0x00#8, 0x01#8, 0x43#8]) = .instr (.spliceDescriptor none 0x00#8 0x01#8 [0x43#8]) ∧
      decode noKeys (.pmtDescriptor 0x100#13 [0x05#8, 0x05#8, 0x43#8, 0x55#8, 0x45#8, 0x49#8, 0xAA#8]) =
        .instr (.pmtRegistrationCuei 0x100#13 0x05#8 [0xAA#8]) ∧
      decode noKeys (.pmtDescriptor 0x100#13 [0x05#8, 0x04#8, 0x43#8, 0x55#8, 0x45#8, 0x4A#8]) =
        .reject .notRegistrationCuei := by decide

theorem test_decode_datagrams :
    let read := fun c => decode { form := .empty, cfg := c } (.mainDgram [0x47#8])
    read 0x02#8 = .instr (.mainRaw [0x47#8]) ∧ read 0x0A#8 = .instr (.mainRtp [0x47#8]) ∧
      read 0x0E#8 = .instr (.mainRtpFec [0x47#8]) ∧
      decode noKeys (.rtp .main (bytesOf 13 0x80A1000a010203041122334455)) =
        .instr (.rtpV2 .main
          { marker := 1#1, payloadType := 33#7, seq := 10#16, timestamp := 0x01020304#32, ssrc := 0x11223344#32 }
          [0x55#8]) ∧
      decode noKeys (.rtp .col (bytesOf 12 0x8121000a0000000011223344)) =
        .instr (.rtpMalformed .col (bytesOf 12 0x8121000a0000000011223344)) := by decide +kernel

theorem test_decode_parity :
    let w := fun (na : Nat) => bytesOf 28 (0x80600001000000000000000000ca0000800000000000000040010000 + na * 256)
    decode noKeys (.fec .col (w 2)) = .instr (.fecCol parityUnit) ∧
      decode noKeys (.fec .row (w 2)) = .instr (.fecRow parityUnit) ∧
      decode noKeys (.fec .row (w 0)) = .instr (.fecMalformed .row (w 0)) := by decide +kernel

theorem test_decode_bit_reader :
    decode noKeys (.brInit [0xA5#8] 8) = .instr (.brInit [0xA5#8] 8) ∧ decode noKeys (.brRead 64) = .instr (.brRead 64) ∧
      decode noKeys (.brSkip 7) = .instr (.brSkip 7) ∧ decode noKeys .brPos = .instr .brPos ∧
      decode noKeys .brAligned = .instr .brAligned := by decide

theorem test_table_words :
    decodeTableWord 8 0x08 = some .rxerr ∧ decodeTableWord 8 0x01 = some (.config 0x00#8) ∧
      (decodeTableWord 32 0x471fff10).isSome = true ∧ decodeTableWord 7 0 = none := by decide +kernel

theorem test_table_word_is_run : step (State.reset.withFetchWord 8 0x08) = exec .rxerr State.reset := rfl

/-! ## One step: host commands (95_test_vectors.md sections 4, 7, 8, 10) -/

/-- H1 after the fatal latch: RESET puts every element back. -/
theorem test_reset_leaves_fatal : after fatalState (.host 0x00#8 []) = some State.reset := by decide +kernel

/-- H1: CONFIG 0x01 in IDLE. -/
theorem test_config_selects_file :
    (after State.reset (.host 0x01#8 [0x01#8])).map (fun t => (t.mode, t.cfg, status t)) =
      some (.file, 0x01#8, 0x0001#16) := by decide +kernel

/-- H1: CONFIG 0x06 and CONFIG 0x11. -/
theorem test_config_refuses :
    eventsAfter State.reset (.host 0x01#8 [0x06#8]) = some [.exn (.x20 0x01#8)] ∧
      eventsAfter State.reset (.host 0x01#8 [0x11#8]) = some [.exn (.x20 0x01#8)] := by decide +kernel

/-- The rows of CONFIG (R362), one by one. -/
theorem test_config_rows :
    let run := fun c => (after State.reset (.cfg c)).map fun t => (t.mode, t.cfg, t.events.length)
    run 0x01#8 = some (.file, 0x01#8, 0) ∧ run 0x02#8 = some (.net, 0x02#8, 0) ∧ run 0x03#8 = some (.sec, 0x03#8, 0) ∧
      run 0x0A#8 = some (.net, 0x0A#8, 0) ∧ run 0x0E#8 = some (.net, 0x0E#8, 0) ∧ run 0x0B#8 = some (.idle, 0#8, 1) := by
  decide +kernel

/-- PKT_PAT. -/
def patPacket : Bytes := bytesOf 5 0x4740001000 ++ patSec ++ fill 167 0xFF#8

/-- PKT_STUFF. -/
def stuffPacket : Bytes := bytesOf 4 0x471fff10 ++ fill 184 0xFF#8

/-- M1: resynchronisation on a PAT. -/
theorem test_push_resynchronises :
    (after fileState (.host 0x02#8 (bytesOf 5 0x0047010203 ++ patPacket ++ stuffPacket))).map
        (fun t => (t.events, t.pktbuf, t.ft)) =
      some ([.exn (.x01 5)], [], [(0, .pat { lastCc := some 0#4, acc := none }), (0x100, .pmt 1#16 .fresh), (0x1FFF, .null)]) := by
  decide +kernel

/-- M3: the hunt waits at 376 bytes and gives up at 377. -/
theorem test_push_loses_sync :
    (after { fileState with pktbuf := fill 375 0#8 } (.host 0x02#8 [0#8])).map (fun t => (t.mode, t.pktbuf.length)) =
        some (.file, 376) ∧
      (after { fileState with pktbuf := fill 376 0#8 } (.host 0x02#8 [0#8])).map (fun t => (status t, t.events)) =
        some (0x0207#16, [.exn .x02]) := by decide +kernel

/-- H1 and M4: EOF. -/
theorem test_eof_reports_the_rest :
    (after { fileState with pktbuf := [0x47#8] } (.host 0x03#8 [])).map (fun t => (t.mode, t.pktbuf, t.events)) =
      some (.done, [], [.exn (.x03 1)]) := by decide +kernel

/-- N2: a 2-byte datagram, and one with version 1. -/
theorem test_datagram_main_header :
    eventsAfter rtpState (.host 0x04#8 [0x80#8, 0x21#8]) = some [.exn (.x16 .main)] ∧
      eventsAfter rtpState (.host 0x04#8 (bytesOf 12 0x4021000a0000000011223344)) = some [.exn (.x16 .main)] := by
  decide +kernel

/-- N3: 65535 after 65534, and 4 where 6 was due. -/
theorem test_datagram_main_wrap :
    (after { rtpState with rtpLast := some 65534#16 } (.host 0x04#8 (bytesOf 12 0x8021ffff0000000011223344))).map
        (fun t => (t.events, t.rtpLast)) = some ([], some 65535#16) ∧
      eventsAfter { rtpState with rtpLast := some 5#16 } (.host 0x04#8 (bytesOf 12 0x802100040000000011223344)) =
        some [.exn (.x17 6#16 4#16)] := by decide +kernel

/-- F7 and H1: a parity datagram with offset 0, and one without FEC. -/
theorem test_datagram_col :
    eventsAfter fecState (.host 0x05#8 (bytesOf 28 0x80600001000000000000000000650000800000000000000000000400)) =
        some [.exn (.x18 .col)] ∧
      eventsAfter rtpState (.host 0x05#8 [0#8]) = some [.exn (.x20 0x05#8)] := by decide +kernel

/-- F7: 27 bytes on ROW, and NA 0. -/
theorem test_datagram_row :
    eventsAfter fecState (.host 0x06#8 (fill 27 0x80#8)) = some [.exn (.x18 .row)] ∧
      eventsAfter fecState (.host 0x06#8 (bytesOf 28 0x80600001000000000000000000680000800000000000000040010000)) =
        some [.exn (.x18 .row)] := by decide +kernel

/-- A header with table_id 0xFC and no encryption, as 95_test_vectors.md writes it. -/
def hdr (adj : BitVec 33) (cw : Byte) (tier len : BitVec 12) (ty : Byte) : SpliceHeader :=
  { tableId := 0xFC#8, protocolVersion := 0#8, encryptedPacket := 0#1, encryptionAlgorithm := 0#6, ptsAdjustment := adj
    cwIndex := cw, tier := tier, commandLength := len, commandType := ty }

/-- The value of W2. -/
def insertDetail : InsertDetail :=
  { networkIndicator := .outward, spliceMode := .program (.timed (some 1936310318#33))
    duration := some { returnMode := .automatic, duration := 5426421#33 }
    uniqueProgramId := 0#16, availNum := 0#8, availsExpected := 0#8 }

/-- W2 on the literal path: S4. -/
theorem test_section_insert :
    (after sectionState (.host 0x07#8 insertSec)).map (fun t => (t.mode, t.events)) =
      some (.done,
        [.splice none (hdr 0#33 0xFF#8 0xFFF#12 20#12 0x05#8) (.spliceInsert 0x4800008F#32 (some insertDetail)) none,
          .descriptor none 0x00#8 (bytesOf 8 0x4355454900000135)]) := by decide +kernel

/-- The literal path's table: a bad CRC, and the PAT. -/
theorem test_section_refused :
    eventsAfter sectionState (.host 0x07#8 (bytesOf 20 0xfc301100000000000000fff0000000007a4fbffe)) =
        some [.exn (.x08 none)] ∧
      eventsAfter sectionState (.host 0x07#8 patSec) = some [.exn (.x09 none 0x00#8)] := by decide +kernel

/-- H1: RXERR in NET and in IDLE. -/
theorem test_rxerr :
    (after rtpState (.host 0x08#8 [])).map (fun t => (status t, t.events)) = some (0x1307#16, [.exn .x19]) ∧
      eventsAfter State.reset (.host 0x08#8 []) = some [.exn (.x20 0x08#8)] := by decide +kernel

/-- R369, and R370 in FATAL. -/
theorem test_illegal_code :
    eventsAfter State.reset (.host 0x09#8 [0x01#8]) = some [.exn (.x20 0x09#8)] ∧
      eventsAfter fatalState (.host 0x09#8 []) = some [] := by decide +kernel

/-! ## One step: packets and filters (sections 4 to 6) -/

/-- B1: a PAT packet on an Empty PID 0. -/
theorem test_packet_payload_pat :
    (after fileState (.ts patPacket)).map (fun t => (t.events, t.ft)) =
      some ([], [(0, .pat { lastCc := some 0#4, acc := none }), (0x100, .pmt 1#16 .fresh)]) := by decide +kernel

/-- M8: a PCR in an adaptation-only packet. -/
theorem test_packet_adapt_pcr :
    (after psi0 (.ts (bytesOf 12 0x47010125b71091a2b3c4feab ++ fill 176 0xFF#8))).map (fun t => (t.events, t.pcrreg)) =
      some ([], [(0x100, .seen { base := 0x123456789#33, ext := 0xAB#9 })]) := by decide +kernel

/-- M8: a PCR before a payload. -/
theorem test_packet_adapt_payload_pcr :
    (after psi0 (.ts (bytesOf 11 0x47010136071091a2b3c57e ++ fill 177 0#8))).map (fun t => (t.events, t.pcrreg)) =
      some ([], [(0x100, .seen { base := 4886718346#33, ext := 0#9 })]) := by decide +kernel

/-- M7: the four malformed packets. -/
theorem test_packets_malformed :
    let run := fun (n w : Nat) (z : Nat) => eventsAfter fileState (.ts (bytesOf n w ++ fill z 0#8))
    run 4 0x47010205 184 = some [.exn (.x04 0x102#13)] ∧ run 5 0x47010230b7 183 = some [.exn (.x04 0x102#13)] ∧
      run 6 0x470102200610 182 = some [.exn (.x04 0x102#13)] ∧ run 5 0x47010220b8 183 = some [.exn (.x04 0x102#13)] ∧
      run 6 0x47010220b700 182 = some [] := by decide +kernel

/-- M1 as a unit: the bytes before the PAT packet. -/
theorem test_nosync_finds_offset :
    (after fileState (.ts (bytesOf 5 0x0047010203 ++ patPacket ++ stuffPacket))).map (fun t => (t.events, t.pktbuf)) =
      some ([.exn (.x01 5)], patPacket ++ stuffPacket) := by decide +kernel

/-- R163: an Empty PID becomes Null, PID 0 becomes Pat. -/
theorem test_route_empty :
    (after fileState (.route (routed 0x300#13 1#1 0#4 [0#8]))).map State.ft = some [(0x300, .null)] ∧
      (after fileState (.route (routed 0#13 0#1 5#4 [0#8]))).map State.ft =
        some [(0, .pat { lastCc := some 5#4, acc := none })] := by decide +kernel

/-- R164: nothing. -/
theorem test_route_null : after (withSlot 0x300 .null) (.route (routed 0x300#13 1#1 0#4 [0#8])) = some (withSlot 0x300 .null) := by
  decide +kernel

/-- B5: the PAT whose entries do not fit. -/
theorem test_route_pat_malformed :
    eventsAfter (withSlot 0 (.pat .fresh))
        (.route (routed 0#13 1#1 0#4 (0#8 :: bytesOf 15 0x00b00c0001c100000001e1bce05be8))) = some [.exn (.x10 0#13)] := by
  decide +kernel

/-- B2: the PMT. -/
theorem test_route_pmt_classifies :
    (after (withSlot 0x100 (.pmt 1#16 .fresh)) (.route (routed 0x100#13 1#1 0#4 (0#8 :: pmtSec)))).map
        (fun t => (t.events, t.ft, t.pcrreg)) =
      some ([], psi0.ft.drop 1, [(0x100, .noPcr)]) := by decide +kernel

/-- A8's second packet: a header that straddles packets. -/
theorem test_route_scte35_straddle :
    let s := { psi0 with ft := [(0x102, .scte35 0x102#13 0x100#13 { lastCc := some 0#4, acc := some [0xFC#8, 0x30#8] })] }
    (after s (.route (routed 0x102#13 0#1 1#4 (bytesOf 18 0x1100000000000000fff0000000007a4fbfff)))).map
        (fun t => (t.events, t.ft)) =
      some ([.splice (some 0x102#13) (hdr 0#33 0x00#8 0xFFF#12 0#12 0x00#8) .spliceNull none],
        [(0x102, .scte35 0x102#13 0x100#13 { lastCc := some 1#4, acc := none })]) := by decide +kernel

/-- A6: the pointer names a new section before the old one ended. -/
theorem test_route_scte35_cut :
    let s := { psi0 with ft := [(0x102, .scte35 0x102#13 0x100#13 { lastCc := some 0#4, acc := some (nullSec.take 9) })] }
    eventsAfter s (.route (routed 0x102#13 1#1 1#4 (2#8 :: 0#8 :: 0#8 :: nullSec))) =
      some [.exn (.x23 0x102#13),
        .splice (some 0x102#13) (hdr 0#33 0x00#8 0xFFF#12 0#12 0x00#8) .spliceNull none] := by decide +kernel

/-- R167. -/
theorem test_route_pcrwatch :
    (after psi0 (.route { routed 0x101#13 0#1 0#4 [0#8] with pcr := some { base := 7#33, ext := 1#9 } })).map State.pcrreg =
      some [(0x100, .seen { base := 7#33, ext := 1#9 })] := by decide +kernel

/-- B5: program_number 0 is skipped. -/
theorem test_sec_pat_names :
    (after (withSlot 0 (.pat .fresh))
        (.sec (some 0#13) (bytesOf 24 0x00b0150001c100000000e0100002e2000003e300c34a3c5c))).map (fun t => (t.events, t.ft)) =
      some ([], [(0, .pat .fresh), (0x200, .pmt 2#16 .fresh), (0x300, .pmt 3#16 .fresh)]) := by decide +kernel

/-- B6: an entry past the section, and another program. -/
theorem test_sec_pmt_faults :
    let s := withSlot 0x100 (.pmt 1#16 .fresh)
    after s (.sec (some 0x100#13) (bytesOf 23 0x02b0140001c10000e101f0001be101f00505047d3d98dd)) =
        some { s with events := [.exn (.x10 0x100#13)] } ∧
      after s (.sec (some 0x100#13) (bytesOf 21 0x02b0120002c10000e101f0001be101f00072e9daa3)) =
        some { s with events := [.exn (.x22 0x100#13 2#16)] } := by decide +kernel

/-- B7: "CUE" is not CUEI. -/
theorem test_sec_pmt_not_cuei :
    (after (withSlot 0x100 (.pmt 1#16 .fresh))
        (.sec (some 0x100#13) (bytesOf 26 0x02b0170001c10000e101f00086e102f00505034355455910cfb9))).map (fun t => (t.events, t.ft)) =
      some ([], [(0x100, .pmt 1#16 .fresh), (0x102, .pcrWatch 0x100#13)]) := by decide +kernel

/-- P2: the time_signal under a PCR 100 ticks ahead. -/
theorem test_sec_splice_annotated :
    eventsAfter { psi0 with pcrreg := [(0x100, .seen { base := 1936310418#33, ext := 0#9 })] }
        (.sec (some 0x102#13) (bytesOf 25 0xfc3016000000000000fffff00506fe7369c02e0000bf836e1a)) =
      some [.splice (some 0x102#13) (hdr 0#33 0xFF#8 0xFFF#12 5#12 0x06#8) (.timeSignal (.timed (some 1936310318#33)))
        (some (-100))] := by decide +kernel

/-- A13: stuffing on a PID; the literal path reads 0xFF as a table_id (R367). -/
theorem test_sec_stuffing :
    eventsAfter psi0 (.sec (some 0x102#13) [0xFF#8, 0xFF#8]) = some [] ∧
      eventsAfter psi0 (.sec none [0xFF#8, 0x00#8, 0x00#8]) = some [.exn (.x09 none 0xFF#8)] := by decide +kernel

/-- A9: table_id 0xFD with a good CRC. -/
theorem test_sec_other :
    eventsAfter psi0 (.sec (some 0x102#13) (bytesOf 20 0xfd301100000000000000fff00000000055f800c5)) =
      some [.exn (.x09 (some 0x102#13) 0xFD#8)] := by decide +kernel

/-! ## One step: splice rows (section 7), each buffer with its CRC stripped -/

/-- The events of one splice row. -/
def spliced (n w : Nat) : Option (List Event) := eventsAfter State.reset (.splice none none (bytesOf n w))

/-- S28. -/
theorem test_splice_encrypted :
    spliced 21 0xfc301600820000000007fff0050501020304050000 =
      some [.splice none { hdr 0#33 0x07#8 0xFFF#12 5#12 0x05#8 with encryptedPacket := 1#1, encryptionAlgorithm := 1#6 }
        (.encrypted (bytesOf 7 0x01020304050000)) none] := by decide +kernel

/-- S2, and S24. -/
theorem test_splice_null :
    spliced 18 0xfc3013000000000000fffff00200aabb0000 =
        some [.splice none (hdr 0#33 0xFF#8 0xFFF#12 2#12 0x00#8) .spliceNull none, .exn (.x13 none)] ∧
      spliced 23 0xfc301800000000000000fff0000000070102aabb0305cc =
        some [.splice none (hdr 0#33 0x00#8 0xFFF#12 0#12 0x00#8) .spliceNull none,
          .descriptor none 0x01#8 [0xAA#8, 0xBB#8], .exn (.x15 none)] := by decide +kernel

/-- S3. -/
theorem test_splice_schedule :
    spliced 17 0xfc3012000000000000fffff00104000000 =
      some [.splice none (hdr 0#33 0xFF#8 0xFFF#12 1#12 0x04#8) (.spliceSchedule [0#8]) none] := by decide +kernel

/-- S20: a wrong declared length. -/
theorem test_splice_insert_length :
    spliced 36 0xfc3025000000000000fffff00f054800008f7feffe7369c02efe0052ccf5000000000000 =
      some [.splice none (hdr 0#33 0xFF#8 0xFFF#12 15#12 0x05#8) (.spliceInsert 0x4800008F#32 (some insertDetail)) none,
        .exn (.x13 none), .exn (.x15 none)] := by decide +kernel

/-- S22 and S23: X11. -/
theorem test_splice_truncated :
    spliced 16 0xfc3011000000000000fffff028000000 = some [.exn (.x11 none)] ∧
      spliced 21 0xfc301600000000000000ffffff05000000057feffe = some [.exn (.x11 none)] := by decide +kernel

/-- S12. -/
theorem test_time_signal :
    spliced 21 0xfc3016000000000005ff12300506ff000000100000 =
      some [.splice none (hdr 5#33 0xFF#8 0x123#12 5#12 0x06#8) (.timeSignal (.timed (some 4294967312#33))) none] := by
  decide +kernel

/-- S14. -/
theorem test_bandwidth_reservation :
    spliced 16 0xfc3011000000000000fffff000070000 =
      some [.splice none (hdr 0#33 0xFF#8 0xFFF#12 0#12 0x07#8) .bandwidthReservation none] := by decide +kernel

/-- S19: an open length takes everything but the last two bytes. -/
theorem test_private_command_open :
    spliced 23 0xfc3018000000000000ffffffffffaabbcc00040102aabb =
      some [.splice none (hdr 0#33 0xFF#8 0xFFF#12 0xFFF#12 0xFF#8) (.privateCommand (bytesOf 7 0xaabbcc00040102)) none,
        .exn (.x15 none)] := by decide +kernel

/-- S16. -/
theorem test_splice_reserved :
    spliced 19 0xfc3014000000000000fffff003420102030000 =
      some [.splice none (hdr 0#33 0xFF#8 0xFFF#12 3#12 0x42#8) (.reserved 0x42#8 [1#8, 2#8, 3#8]) none,
        .exn (.x12 none 0x42#8)] := by decide +kernel

/-- What one step leaves as the answer, and the cursor. -/
def answerAfter (s : State) (r : Request) : Option (UnitResult × Nat) := (after s r).map fun t => (t.result, t.br.pos)

/-- S6 and S4: the bodies of a cancelled and of a timed program insert. -/
theorem test_insert_program :
    answerAfter State.reset (.insert none (bytesOf 5 0xcafef00dff)) = some (.command (.spliceInsert 0xCAFEF00D#32 none), 40) ∧
      answerAfter State.reset (.insert none (bytesOf 20 0x4800008f7feffe7369c02efe0052ccf500000000)) =
        some (.command (.spliceInsert 0x4800008F#32 (some insertDetail)), 160) := by decide +kernel

/-- S5: immediate. -/
theorem test_insert_program_immediate :
    answerAfter State.reset (.insert none (bytesOf 10 0x000000017f5f12340203)) =
      some (.command (.spliceInsert 1#32 (some
        { networkIndicator := .inward, spliceMode := .program .immediate, duration := none, uniqueProgramId := 4660#16
          availNum := 2#8, availsExpected := 3#8 })), 80) := by decide +kernel

/-- The value of S8. -/
def componentDetail : InsertDetail :=
  { networkIndicator := .outward
    spliceMode := .components [{ tag := 1#8, time := .timed (some 90000#33) }, { tag := 2#8, time := .timed none }]
    duration := some { returnMode := .manual, duration := 180000#33 }
    uniqueProgramId := 9#16, availNum := 1#8, availsExpected := 1#8 }

/-- S8: two components, and its break duration alone. -/
theorem test_insert_component_timed :
    answerAfter State.reset (.insert none (bytesOf 24 0x000000077faf0201fe00015f90027f7e0002bf2000090101)) =
        some (.command (.spliceInsert 7#32 (some componentDetail)), 192) ∧
      answerAfter State.reset (.duration none (bytesOf 24 0x000000077faf0201fe00015f90027f7e0002bf2000090101)) =
        some (.duration { returnMode := .manual, duration := 180000#33 }, 160) := by decide +kernel

/-- S10: three immediate components. -/
theorem test_insert_component_immediate :
    answerAfter State.reset (.insert none (bytesOf 14 0x000000097f9f0305060700000000)) =
      some (.command (.spliceInsert 9#32 (some
        { networkIndicator := .outward
          spliceMode := .components [{ tag := 5#8, time := .immediate }, { tag := 6#8, time := .immediate },
            { tag := 7#8, time := .immediate }]
          duration := none, uniqueProgramId := 0#16, availNum := 0#8, availsExpected := 0#8 })), 112) := by decide +kernel

/-- Section 3: the splice_time `fe7369c02e`; S13's `7f`. -/
theorem test_splice_times :
    answerAfter State.reset (.spliceTime none (bytesOf 5 0xfe7369c02e)) = some (.time (.timed (some 1936310318#33)), 40) ∧
      answerAfter State.reset (.spliceTime none [0x7F#8]) = some (.time (.timed none), 8) ∧
      eventsAfter State.reset (.spliceTime none [0xFE#8]) = some [.exn (.x11 none)] := by decide +kernel

/-- S24's two descriptors. -/
theorem test_descriptors :
    eventsAfter State.reset (.descriptor none [0x01#8, 0x02#8, 0xAA#8, 0xBB#8, 0x03#8]) =
        some [.descriptor none 0x01#8 [0xAA#8, 0xBB#8]] ∧
      eventsAfter State.reset (.descriptor none [0x03#8, 0x05#8, 0xCC#8]) = some [.exn (.x15 none)] := by decide +kernel

/-- B6: the registration descriptor, whole and cut. -/
theorem test_registration_descriptors :
    (after State.reset (.pmtDescriptor 0x100#13 (bytesOf 6 0x050443554549))).map State.result = some .cueiRegistered ∧
      eventsAfter State.reset (.pmtDescriptor 0x100#13 (bytesOf 6 0x050543554549)) = some [.exn (.x10 0x100#13)] := by
  decide +kernel

/-! ## One step: datagrams and parity (sections 8 and 9) -/

/-- N4: raw bytes are stream bytes. -/
theorem test_main_raw :
    (after rawState (.mainDgram (patPacket.take 100))).map (fun t => (t.events, t.pktbuf.length, t.rtpLast)) =
      some ([], 100, none) := by decide +kernel

/-- N1: 13 after 11. -/
theorem test_main_rtp_gap :
    (after { rtpState with rtpLast := some 11#16 } (.mainDgram (bytesOf 12 0x8021000d0000000011223344))).map
        (fun t => (t.events, t.rtpLast)) = some ([.exn (.x17 12#16 13#16)], some 13#16) := by decide +kernel

/-- The payloads of section 9 that are present: 104, 106, 107. -/
def heldMedia : List (Nat × Bytes) :=
  [(104, bytesOf 4 0x6897d8a4), (106, bytesOf 4 0x6a95e6a6), (107, bytesOf 4 0x6b94eda7)]

/-- F5 before the row parity: 105 is missing. -/
def waitingState : State :=
  { fecState with rtpLast := some 104#16, fHi := some 107#16, fNext := some 105#16, fStore := heldMedia }

/-- F6: the second 105 is dropped; F5: 104 starts delivery. -/
theorem test_main_rtp_fec :
    after waitingState (.mainDgram (bytesOf 16 0x8021006a00000000112233446a95e6a6)) = some waitingState ∧
      (after fecState (.mainDgram (bytesOf 16 0x8021006800000000112233446897d8a4))).map
          (fun t => (t.fHi, t.fNext, t.rtpLast, t.pktbuf)) =
        some (some 104#16, some 105#16, some 104#16, bytesOf 4 0x6897d8a4) := by decide +kernel

/-- N2: payload type and marker are not consulted. -/
theorem test_rtp_header :
    (after rtpState (.rtp .main (bytesOf 14 0x80e0000b00000000112233440102))).map State.result =
        some (.rtp 11#16 [1#8, 2#8]) ∧
      eventsAfter rtpState (.rtp .row (bytesOf 12 0xa021000a0000000011223344)) = some [.exn (.x18 .row)] := by
  decide +kernel

/-- F1's ROW1: 105 is rebuilt and 105 to 107 are delivered. -/
theorem test_fec_row_rebuilds :
    (after waitingState (.fec .row (bytesOf 32 0x8060000100000000000000000068000080000000000000004001040000000c00))).map
        (fun t => (t.events, t.fNext, t.rtpLast, t.pktbuf)) =
      some ([], some 108#16, some 107#16, bytesOf 12 0x6996dfa56a95e6a66b94eda7) := by decide +kernel

/-- F8: the recovered length exceeds the parity payload. -/
theorem test_fec_row_invalid :
    (after waitingState (.fec .row (bytesOf 32 0x8060000100000000000000000068000980000000000000004001040000000c00))).map
        (fun t => (t.events, t.fNext, t.fPar)) = some ([.exn (.x24 .row)], some 105#16, []) := by decide +kernel

/-- F4: COL2 (102, 106, 110, 114) with two members missing waits. -/
theorem test_fec_col_waits :
    (after waitingState (.fec .col (bytesOf 32 0x8060000200000000000000000066000080000000000000000004040010103010))).map
        (fun t => (t.events, t.fPar.map ParityRec.snbase, t.fStore.length)) = some ([], [102#16], 3) := by decide +kernel

/-- F7: RTP version 1 on COL. -/
theorem test_fec_malformed :
    after fecState (.fec .col (fill 28 0x40#8)) = some { fecState with events := [.exn (.x18 .col)] } := by decide +kernel

/-! ## One step: the bit reader (section 3), buffer `a5c3` -/

/-- The reader of section 3 at a position. -/
def readerAt (p : Nat) : State := { State.reset with br := { buf := [0xA5#8, 0xC3#8], pos := p } }

theorem test_bit_read :
    answerAfter (readerAt 3) (.brRead 6) = some (.value 11, 9) ∧ answerAfter (readerAt 4) (.brRead 12) = some (.value 1475, 16) ∧
      answerAfter (readerAt 16) (.brRead 1) = some (.underrun, 16) ∧ answerAfter (readerAt 16) (.brRead 0) = some (.value 0, 16) := by
  decide +kernel

theorem test_bit_skip :
    answerAfter (readerAt 9) (.brSkip 7) = some (.ok, 16) ∧ answerAfter (readerAt 0) (.brSkip 17) = some (.underrun, 0) := by
  decide +kernel

theorem test_bit_init_pos_aligned :
    (after State.reset (.brInit (fill 16 0#8) 24)).map (fun t => t.br.pos) = some 24 ∧
      answerAfter (readerAt 9) .brPos = some (.position 9, 9) ∧ answerAfter (readerAt 9) .brAligned = some (.aligned false, 9) ∧
      answerAfter (readerAt 8) .brAligned = some (.aligned true, 8) := by decide +kernel

/-! ## One step on a request of no row (log entry 9) -/

/-- R251 on 13 bytes; R369 on a RESET with an operand; R199 on two sections at once, R195 on one and the header of another. -/
theorem test_requests_of_no_row :
    eventsAfter State.reset (.splice none none (nullSec.take 13)) = some [.exn (.x11 none)] ∧
      after fileState (.host 0x00#8 [0#8]) = some { fileState with events := [.exn (.x20 0x00#8)] } ∧
      (eventsAfter psi0 (.sec (some 0x102#13) (nullSec ++ nullSec))).map List.length = some 2 ∧
      (after psi0 (.sec (some 0x102#13) (nullSec ++ nullSec.take 2))).map (fun t => (t.events.length, reasmAt t 0x102#13)) =
        some (1, some { lastCc := none, acc := some (nullSec.take 2) }) := by decide +kernel

/-! ## Arithmetic (sections 3 and 7) -/

theorem test_crc_table :
    crc [] = 0xFFFFFFFF#32 ∧ crc [0x00#8] = 0x4E08BFB4#32 ∧ crc (bytesOf 9 0x313233343536373839) = 0x0376E6E7#32 ∧
      crc patSec = 0#32 := by decide +kernel

theorem test_elapsed_table :
    elapsed 400#33 1000#33 = -600 ∧ elapsed 5#33 8589934587#33 = 10 ∧ elapsed 4294967296#33 0#33 = -4294967296 ∧
      elapsed 4294967295#33 0#33 = 4294967295 := by decide +kernel

/-! ## Witnesses: concrete states and operands that meet the hypotheses of each statement

`witness_<Name>` belongs to `Obligations.<Name>`. A statement without hypotheses has none. -/

/-- PSI0 with 9 bytes of a section open on PID 0x102 and a PUSH pending. -/
def busyState : State :=
  { psi0 with
    ft := [(0, .pat { lastCc := some 0#4, acc := none }), (0x100, .pmt 1#16 { lastCc := some 0#4, acc := none }),
      (0x101, .pcrWatch 0x100#13), (0x102, .scte35 0x102#13 0x100#13 { lastCc := some 4#4, acc := some (nullSec.take 9) })]
    pktbuf := [0x47#8]
    inbox := [.host 0x03#8 []] }

/-- `busyState` after its EOF. -/
def busyNext : State := { busyState with pktbuf := [], mode := .done, events := [.exn (.x03 1)], inbox := [] }

theorem busy_step : step busyState = .next busyNext := rfl

/-- `busyState` with a CONFIG without its operand pending. -/
def refusedState : State := { busyState with inbox := [.host 0x01#8 []] }

theorem witness_StepRunsTheDecodedRequest :
    State.reset.inbox = [] ∧ busyState.inbox = .host 0x03#8 [] :: [] ∧
      busyState.decodeRequest (.host 0x03#8 []) = .instr .eof ∧ refusedState.inbox = .host 0x01#8 [] :: [] ∧
      refusedState.decodeRequest (.host 0x01#8 []) = .reject .operandMissing ∧ refusedState.mode ≠ .fatal := by
  decide +kernel

theorem witness_DecodeOfEncodeIsTheInstruction :
    (Instr.fecCol parityUnit).wf = true ∧ selects noKeys (.fecCol parityUnit) = true ∧
      (Instr.mainRtp [0x80#8]).wf = true ∧ selects { form := .pat, cfg := 0x0A#8 } (.mainRtp [0x80#8]) = true := by
  decide

theorem witness_EncodeOfDecodeIsTheRequest :
    decode noKeys (.insert none [0#8, 0#8, 0#8, 1#8, 0x80#8]) = .instr (.insertCancel none 1#32 0#7 []) := by decide

/-- The operands that `ConfigStoresALegalOperandInIdle` refuses in IDLE. -/
abbrev refusedOperand (cfg : Byte) : Prop :=
  cfg.extractLsb' 0 2 = 0#2 ∨ cfg.extractLsb' 4 4 ≠ 0#4 ∨
    (cfg.extractLsb' 0 2 ≠ 2#2 ∧ (cfg.extractLsb' 2 1 ≠ 0#1 ∨ cfg.extractLsb' 3 1 ≠ 0#1)) ∨
    (cfg.extractLsb' 0 2 = 2#2 ∧ cfg.extractLsb' 2 1 = 1#1 ∧ cfg.extractLsb' 3 1 = 0#1)

theorem witness_ConfigStoresALegalOperandInIdle :
    (fatalState.mode = .fatal ∧ fileState.mode ≠ .fatal ∧ fileState.mode ≠ .idle ∧ State.reset.mode = .idle) ∧
      (refusedOperand 0x00#8 ∧ refusedOperand 0x10#8 ∧ refusedOperand 0x05#8 ∧ refusedOperand 0x09#8 ∧ refusedOperand 0x06#8) ∧
      ¬ refusedOperand 0x01#8 ∧ ¬ refusedOperand 0x02#8 ∧ ¬ refusedOperand 0x03#8 ∧ ¬ refusedOperand 0x0A#8 ∧
      ¬ refusedOperand 0x0E#8 :=
  ⟨by decide, ⟨by decide, by decide, by decide, by decide, by decide⟩, by decide, by decide, by decide, by decide, by decide⟩

theorem witness_ConfigRowsAreTheirOperands :
    State.reset.mode = .idle ∧ fileState.mode ≠ .idle ∧ fileState.mode ≠ .fatal := by decide

theorem witness_IllegalCommandsChangeNothing :
    State.reset.mode ≠ .fatal ∧ 9 ≤ (0x09#8).toNat ∧ fileState.mode ≠ .idle ∧
      (0x06#8 : Byte) ∉ [0x01#8, 0x02#8, 0x03#8, 0x0A#8, 0x0E#8] ∧ State.reset.mode ≠ .file ∧ State.reset.mode ≠ .net ∧
      State.reset.mode ≠ .sec ∧ rtpState.mode = .net ∧ rtpState.cfg.extractLsb' 2 1 = 0#1 := by decide

theorem witness_FatalIgnoresEveryCommandButReset :
    (encode (.push [0x47#8])).isHost = true ∧ fatalState.mode = .fatal ∧ Instr.push [0x47#8] ≠ .reset := by decide

theorem witness_ModeMovesOnlyAlongTheMachine :
    exec .eof fileState = .next { fileState with mode := .done } ∧
      exec (.config 0x0A#8) State.reset = .next rtpState ∧ exec .reset fatalState = .next State.reset ∧
      exec (.literalSection []) sectionState = .next { sectionState with mode := .done, events := [.exn (.x11 none)] } ∧
      exec .rxerr rtpState = .next { rtpState with mode := .fatal, fatalCode := 19#8, events := [.exn .x19] } :=
  ⟨rfl, rfl, rfl, rfl, rfl⟩

theorem witness_ExceptionEntryAndStatus :
    Exn.x03 1 ≠ .x02 ∧ Exn.x03 1 ≠ .x19 ∧ rtpState.mode = .net ∧ fileState.fatalCode = 0#8 ∧ State.reset.mode = .idle ∧
      fileState.mode = .file ∧ sectionState.mode = .sec ∧ busyNext.mode = .done ∧ busyNext.fatalCode = 0#8 := by decide

theorem witness_ControlRegistersStayLegal :
    ControlInv busyState ∧ CursorInv busyState ∧ step busyState = .next busyNext :=
  ⟨⟨rfl, rfl⟩, Nat.le_refl 0, busy_step⟩

theorem witness_InstructionsKeepHistoryAndConfiguration :
    exec .eof busyState = .next { busyNext with inbox := busyState.inbox } ∧ pcrAt busyState 0x100#13 ≠ .absent ∧
      exec .reset busyState = .next { State.reset with inbox := busyState.inbox } := ⟨rfl, by decide, rfl⟩

theorem witness_TablesStayCanonical : Memory.wf busyState = true ∧ step busyState = .next busyNext :=
  ⟨by decide +kernel, busy_step⟩

/-- What a slot of `busyState` is. -/
theorem busy_slot (p : Pid) : slotAt busyState p = .empty ∨ (p.toNat, slotAt busyState p) ∈ busyState.ft := by
  unfold slotAt
  cases h : tableGet p.toNat busyState.ft with
  | none => exact .inl rfl
  | some v => exact .inr (tableGet_mem h)

theorem witness_PartialSectionsStayShort : ReasmInv busyState ∧ step busyState = .next busyNext := by
  refine ⟨fun p r h => ?_, busy_step⟩
  unfold reasmAt at h
  rcases busy_slot p with e | e
  · rw [e] at h; cases h
  · have hall : ∀ e ∈ busyState.ft, ∀ r ∈ e.2.reasm, r.ok = true := by decide +kernel
    exact hall _ e _ h

theorem witness_FiltersStayConsistent : FilterInv busyState ∧ step busyState = .next busyNext := by
  refine ⟨fun p => ?_, busy_step⟩
  unfold formAt
  rcases busy_slot p with e | e
  · rw [e]; simp [Slot.form]
  · generalize slotAt busyState p = v at e
    simp only [busyState, psi0, List.mem_cons, Prod.mk.injEq, List.not_mem_nil, or_false] at e
    have hp : ∀ n, p.toNat = n → p = BitVec.ofNat 13 n := fun n h => by simp [← h]
    rcases e with ⟨h, rfl⟩ | ⟨h, rfl⟩ | ⟨h, rfl⟩ | ⟨h, rfl⟩ <;> rw [hp _ h]
    · simp [Slot.form]
    · simp [Slot.form]
    · simp [Slot.form]; decide
    · simp [Slot.form]; decide

/-- `waitingState` with the column that waits and a parity datagram pending. -/
def fecBusy : State :=
  { waitingState with
    fPar := [{ port := .col, snbase := 102#16, offset := 4#8, na := 4#8, lenrec := 0#16, payload := bytesOf 4 0x10103010 }]
    inbox := [.host 0x08#8 []] }

/-- `fecBusy` after its RXERR. -/
def fecNext : State := { fecBusy with mode := .fatal, fatalCode := 19#8, events := [.exn .x19], inbox := [] }

theorem fec_held (m : SeqNum) (h : (tableGet m.toNat heldMedia).isSome = true) : m = 104#16 ∨ m = 106#16 ∨ m = 107#16 := by
  obtain ⟨v, hv⟩ := Option.isSome_iff_exists.mp h
  have e := tableGet_mem hv
  simp only [heldMedia, List.mem_cons, Prod.mk.injEq, List.not_mem_nil, or_false] at e
  have hp : ∀ n, m.toNat = n → m = BitVec.ofNat 16 n := fun n h => by simp [← h]
  rcases e with ⟨h, -⟩ | ⟨h, -⟩ | ⟨h, -⟩
  · exact .inl (hp _ h)
  · exact .inr (.inl (hp _ h))
  · exact .inr (.inr (hp _ h))

theorem fec_busy_inv : FecInv fecBusy := by
  refine ⟨by decide, by decide, by decide, ?_, by decide, by decide⟩
  intro hi hh m hm
  cases hh
  rcases fec_held m hm with rfl | rfl | rfl <;> decide

theorem witness_FecWindowIsKept : FecInv fecBusy ∧ step fecBusy = .next fecNext := ⟨fec_busy_inv, rfl⟩

theorem fec_busy_settled : fecSettled fecBusy := by
  intro hi q hh hq
  cases hh; cases hq
  decide +kernel

theorem witness_FecIsSettledBetweenTransactions :
    FecInv fecBusy ∧ (fecBusy.mode ≠ .fatal → fecSettled fecBusy) ∧ step fecBusy = .next fecNext :=
  ⟨fec_busy_inv, fun _ => fec_busy_settled, rfl⟩

theorem witness_PktbufStaysBounded : PktbufInv busyState ∧ HostNext busyState ∧ step busyState = .next busyNext := by
  refine ⟨by simp [PktbufInv, busyState, Config.syncByte, Config.tsPkt], ?_, busy_step⟩
  intro r h
  cases h; rfl

theorem witness_PushOfOnePacketIsItsRow :
    fileState.mode = .file ∧ fileState.pktbuf = [] ∧ (fill 184 0#8).length = 184 := by decide +kernel

theorem witness_PushFrame :
    fileState.mode = .file ∧ rawState.mode = .net ∧ rawState.cfg = 0x02#8 ∧ rawState.mode ≠ .fatal := by decide

theorem witness_ChunksDoNotMatter : busyState.mode = .file := rfl

theorem witness_EofReportsTheRestAndEndsTheRun :
    busyState.mode = .file ∧ busyState.pktbuf.length ≠ 0 ∧ fileState.mode = .file ∧ fileState.pktbuf.length = 0 := by decide

/-- Zero bytes with sync at the last offset of the window and one packet on. -/
def lateSync : Bytes := fill 376 0#8 ++ 0x47#8 :: (fill 187 0#8 ++ [0x47#8])

theorem zero_at {n j : Nat} (h : j < n) : (fill n 0#8)[j]? = some 0#8 := by
  simp [fill, h]

theorem fill_length (n : Nat) (b : Byte) : (fill n b).length = n := List.length_replicate

theorem zero_below {n j : Nat} (h : j < n) (rest : Bytes) : (fill n 0#8 ++ rest)[j]? = some 0#8 := by
  rw [List.getElem?_append_left (by rw [fill_length]; exact h), zero_at h]

/-- The first clause at offset 376, the second on 377 zero bytes, the third with offset 376 not yet there and with
offset 1 not yet confirmed. -/
theorem witness_HuntTakesTheLeastConfirmedOffset :
    (fileState.mode = .file ∧ fileState.pktbuf = []) ∧ (lateSync ≠ [] ∧ lateSync.head? ≠ some 0x47#8 ∧ lateSync[376]? = some 0x47#8 ∧ lateSync[376 + 188]? = some 0x47#8 ∧
      ∀ j, 1 ≤ j → j < 376 → ∃ c, lateSync[j]? = some c ∧ c ≠ 0x47#8) ∧
    ((fill 377 0#8).head? ≠ some 0x47#8 ∧ ∀ k, 1 ≤ k → k ≤ 376 → ∃ c, (fill 377 0#8)[k]? = some c ∧ c ≠ 0x47#8) ∧
    ((fill 376 0#8).head? ≠ some 0x47#8 ∧ (fill 376 0#8)[376]? = none ∧
      ∀ j, 1 ≤ j → j < 376 → ∃ c, (fill 376 0#8)[j]? = some c ∧ c ≠ 0x47#8) ∧
    ([0#8, 0x47#8][1]? = some 0x47#8 ∧ [0#8, 0x47#8][1 + 188]? = none) := by
  refine ⟨⟨rfl, rfl⟩, ⟨by decide +kernel, by decide +kernel, by decide +kernel, by decide +kernel, fun j _ h => ?_⟩,
    ⟨by decide +kernel, fun k _ h => ?_⟩, ⟨by decide +kernel, by decide +kernel, fun j _ h => ?_⟩, rfl, rfl⟩
  · exact ⟨0#8, zero_below h _, by decide⟩
  · exact ⟨0#8, zero_at (by omega), by decide⟩
  · exact ⟨0#8, zero_at h, by decide⟩

/-- Lengths 184, 183, 182 and 6 and 7 with and without PCR_flag; the PCR of M8. -/
theorem witness_PacketsAreRoutedByTheirFields :
    fileState.mode ≠ .fatal ∧ 183 < (184#8).toNat ∧ 182 < (183#8).toNat ∧ (183#8).toNat ≤ 183 ∧ (182#8).toNat ≤ 182 ∧
      (1 ≤ (6#8).toNat ∧ (0x10#8).extractLsb' 4 1 = 1#1 ∧ (6#8).toNat < 7) ∧ 7 ≤ (7#8).toNat ∧
      ¬ (1 ≤ (0#8).toNat ∧ (0x10#8).extractLsb' 4 1 = 1#1) ∧ ¬ (1 ≤ (183#8).toNat ∧ (0xEF#8).extractLsb' 4 1 = 1#1) ∧
      (0x123456789#33).toNat = 0x91 * 2 ^ 25 + 0xa2 * 2 ^ 17 + 0xb3 * 2 ^ 9 + 0xc4 * 2 + 0xfe / 128 ∧
      (0xAB#9).toNat = 0xfe % 2 * 256 + 0xab := by decide

theorem witness_EmptyAndPcrWatchFilters :
    fileState.mode ≠ .fatal ∧ formAt fileState 0#13 = .empty ∧ formAt fileState 1#13 = .empty ∧ psi0.mode ≠ .fatal ∧
      formAt psi0 0x101#13 = .pcrWatch 0x100#13 := by decide +kernel

theorem witness_UnitsNobodyReadsChangeNothing : { routed 0#13 0#1 0#4 [] with payload := none }.payload = none := rfl

/-- PID 0x102 with two header bytes of a section open, the second beginning a length of 0xFxx. -/
def straddleState : State :=
  { psi0 with ft := [(0x102, .scte35 0x102#13 0x100#13 { lastCc := some 4#4, acc := some [0xFC#8, 0x3F#8] })] }

/-- PID 0x102 of `busyState` has a section open and last_cc 4; of PSI0 it is idle. A pointer_field one past the 183 bytes
after it; a section that declares 4094 bytes, at the pointer and across two packets. -/
theorem witness_DroppedPayloadsLeaveTheFilterIdle :
    reasmAt busyState 0x102#13 = some { lastCc := some 4#4, acc := some (nullSec.take 9) } ∧ (6#4).toNat ≠ ((4#4).toNat + 1) % 16 ∧
      reasmAt psi0 0x102#13 = some { lastCc := none, acc := none } ∧ busyState.mode ≠ .fatal ∧ psi0.mode ≠ .fatal ∧
      some (4#4) = some (5#4 - 1#4) ∧ (fill 183 0#8).length < (184#8).toNat ∧
      4093 < ((0x3F#8 ++ 0xFE#8 : BitVec 16).extractLsb' 0 12).toNat ∧
      (fill 255 0xAA#8).length < 256 ∧
      reasmAt straddleState 0x102#13 = some { lastCc := some 4#4, acc := some [0xFC#8, 0x3F#8] } ∧
      [0xFC#8, 0x3F#8] ++ [0xFE#8] = [0xFC#8, 0x3F#8, 0xFE#8] ∧ (5#4).toNat = ((4#4).toNat + 1) % 16 ∧
      straddleState.mode ≠ .fatal := by decide +kernel

/-- PSI0 idle on PID 0x102 with W1; `busyState` with 9 bytes of W1 open, the rest of it completing it, one byte less
leaving it open; `straddleState` with a header that is too long. -/
theorem witness_WholeSectionInOnePacketCompletes :
    psi0.mode ≠ .fatal ∧ sectionBytes 0xFC#8 (sectionFields 0x3011#16) (nullSec.drop 3) = nullSec ∧
      (sectionFields 0x3011#16).sectionLength.toNat = (nullSec.drop 3).length ∧ (nullSec.drop 3).length ≤ 4093 ∧
      reasmAt psi0 0x102#13 = some Reasm.fresh ∧
      (∀ k, decode k (.sec (some 0x102#13) nullSec) = .instr (.secSplice (some 0x102#13) (sectionFields 0x3011#16) (nullSec.drop 3))) ∧
      reasmAt busyState 0x102#13 = some { lastCc := some 4#4, acc := some (nullSec.take 9) } ∧
      nullSec.take 9 ++ nullSec.drop 9 = nullSec ∧ (nullSec.drop 9 ++ fill 244 0xAA#8).length < 256 ∧
      Reasm.ok { lastCc := none, acc := some (nullSec.take 9 ++ (nullSec.drop 9).take 10) } = true ∧
      ((fill 255 0xFF#8).length < 256 ∧ Reasm.ok { lastCc := none, acc := some [0xFC#8] } = true ∧
        Reasm.ok { lastCc := none, acc := some (nullSec.take 19) } = true ∧ (nullSec.take 19).head? ≠ some 0xFF#8) ∧
      reasmAt straddleState 0x102#13 = some { lastCc := some 4#4, acc := some [0xFC#8, 0x3F#8] } ∧
      4093 < ((0x3F#8 ++ 0xFE#8 : BitVec 16).extractLsb' 0 12).toNat :=
  ⟨by decide, by decide +kernel, by decide +kernel, by decide +kernel, by decide +kernel, fun _ => rfl, by decide +kernel,
    by decide +kernel, by decide +kernel, by decide +kernel, by decide +kernel, by decide +kernel, by decide⟩

/-- A section open on PID 0x102 of `busyState`; on PSI0 a packet that opens one and leaves it open, the rest just completing it. -/
theorem witness_SectionSplitOverPacketsIsWhole :
    busyState.mode ≠ .fatal ∧
      (∃ r, reasmAt busyState 0x102#13 = some r ∧ r.ok = true ∧ r.acc ≠ none ∧ r.lastCc = some (5#4 - 1#4)) ∧
      psi0.mode ≠ .fatal ∧ reasmAt psi0 0x102#13 = some .fresh ∧ Reasm.fresh.ok = true ∧
      (after psi0 (.route (routed 0x102#13 1#1 0#4 (0#8 :: nullSec.take 9)))).map (fun t => reasmAt t 0x102#13) =
        some (some { lastCc := some 0#4, acc := some (nullSec.take 9) }) ∧
      (nullSec.take 9 ++ nullSec.drop 9).length ≤ 3 + (sectionLength (nullSec.take 9 ++ nullSec.drop 9)).toNat :=
  ⟨by decide, ⟨{ lastCc := some 4#4, acc := some (nullSec.take 9) }, by decide +kernel⟩, by decide, by decide +kernel,
    by decide, by decide +kernel, by decide +kernel⟩

/-- For each filter, a section too long, one with a bad CRC and one with a good CRC and another table_id. -/
theorem witness_SectionRowsCheckCrcThenTableId :
    psi0.mode ≠ .fatal ∧ formAt psi0 0#13 = .pat ∧ formAt psi0 0x100#13 = .pmt 1#16 ∧
      formAt psi0 0x102#13 = .scte35 0x102#13 0x100#13 ∧
      (∀ k, decode k (.sec (some 0#13) [0xFC#8, 0x3F#8, 0xFE#8]) = .instr (.secSplice (some 0#13) (sectionFields 0x3FFE#16) [])) ∧
      4093 < (sectionFields 0x3FFE#16).sectionLength.toNat ∧ (sectionFields 0x3FFD#16).sectionLength.toNat ≤ 4093 ∧
      (∀ k, decode k (.sec (some 0#13) [0xFC#8, 0x30#8, 0x00#8]) = .instr (.secSplice (some 0#13) (sectionFields 0x3000#16) [])) ∧
      (sectionBytes 0xFC#8 (sectionFields 0x3000#16) []).length < 4 ∧
      ¬ (patSec.length < 4 ∨ crc (patSec.take (patSec.length - 4)) ≠ u32be patSec (patSec.length - 4)) ∧
      sectionBytes 0x00#8 (sectionFields 0xB00D#16) (patSec.drop 3) = patSec :=
  ⟨by decide, by decide +kernel, by decide +kernel, by decide +kernel, fun _ => rfl, by decide, by decide, fun _ => rfl,
    by decide +kernel, by decide +kernel, by decide +kernel⟩

/-- The PAT of section 3 fits, names a PID whose filter it leaves and, where the PID was Empty, makes it fresh; the first
one of B5 does not fit. -/
theorem witness_PatNamesPmtFilters :
    let short := bytesOf 15 0x00b00c0001c100000001e1bce05be8
    psi0.mode ≠ .fatal ∧ formAt psi0 0#13 = .pat ∧ crcGood patSec = true ∧ 12 ≤ patSec.length ∧ (patSec.length - 12) % 4 = 0 ∧
      sectionBytes 0x00#8 (sectionFields 0xB00D#16) (patSec.drop 3) = patSec ∧
      (sectionFields 0xB00D#16).sectionLength.toNat ≤ 4093 ∧ patNamed patSec 0x100#13 = [1#16] ∧
      formAt psi0 0x100#13 = .pmt 1#16 ∧ formAt (withSlot 0 (.pat .fresh)) 0x100#13 = .empty ∧
      patNamed patSec 0x101#13 = [] ∧ crcGood short = true ∧ (short.length - 12) % 4 ≠ 0 ∧
      sectionBytes 0x00#8 (sectionFields 0xB00C#16) (short.drop 3) = short := by decide +kernel

/-- 4094 bytes declared; a section without room for a CRC; the two of B6; the PMT of section 3, of whose streams PSI0
holds one as classified. -/
theorem witness_PmtIsAppliedWholeOrNotAtAll :
    let cut := bytesOf 23 0x02b0140001c10000e101f0001be101f00505047d3d98dd
    let other := bytesOf 21 0x02b0120002c10000e101f0001be101f00072e9daa3
    psi0.mode ≠ .fatal ∧ formAt psi0 0x100#13 = .pmt 1#16 ∧ 4093 < (sectionFields 0xBFFE#16).sectionLength.toNat ∧
      crcGood (sectionBytes 0x02#8 (sectionFields 0xB000#16) []) = false ∧
      (sectionBytes 0x02#8 (sectionFields 0xB014#16) (cut.drop 3) = cut ∧ crcGood cut = true ∧ parsePmt 1#16 cut = .bad) ∧
      (sectionBytes 0x02#8 (sectionFields 0xB012#16) (other.drop 3) = other ∧ crcGood other = true ∧
        parsePmt 1#16 other = .otherProgram 2#16) ∧
      (sectionBytes 0x02#8 (sectionFields 0xB01D#16) (pmtSec.drop 3) = pmtSec ∧ crcGood pmtSec = true ∧
        parsePmt 1#16 pmtSec = .streams [(0x101#13, false), (0x102#13, true)]) ∧
      formAt psi0 0x101#13 = .pcrWatch 0x100#13 ∧ formAt fileState 0x101#13 = .empty := by decide +kernel

/-- The streams of PMT, and an other program; 1 and 4 bytes where an entry should be, an ES_info_length one too long, a
descriptor one byte long and one that runs past its entry; 15 bytes; a program_info_length of 1 without room. -/
theorem witness_PmtLayoutIsReadBack :
    pmtFits [] [{ streamType := 0x1B#8, pid := 0x101#13, descriptors := [] },
      { streamType := 0x86#8, pid := 0x102#13, descriptors := [(0x05#8, cuei)] }] ∧ (2#16 : BitVec 16) ≠ 1#16 ∧
      brokenStream [0x1B#8] ∧ brokenStream (fill 4 0#8) ∧ brokenStream (bytesOf 5 0x1be101f001) ∧
      brokenStream (bytesOf 6 0x1be101f00105) ∧ brokenStream (bytesOf 7 0x1be101f0020501) ∧ (fill 15 0#8).length < 16 ∧
      (let sec := bytesOf 16 0x02b00d0001c10000e101f00100000000
       16 ≤ sec.length ∧ u16be sec 3 = 1#16 ∧
         sec.length < 16 + ((byteAt sec 10 ++ byteAt sec 11).extractLsb' 0 12).toNat) := by
  refine ⟨⟨by decide, by decide⟩, by decide, .inl (by decide), .inl (by decide +kernel), .inr ?_, .inr ?_, .inr ?_,
    by decide +kernel, by decide +kernel⟩
  · exact ⟨0x1B#8, 0xE1#8, 0x01#8, 0xF0#8, 0x01#8, [], by decide +kernel, .inl (by decide)⟩
  · exact ⟨0x1B#8, 0xE1#8, 0x01#8, 0xF0#8, 0x01#8, [0x05#8], by decide +kernel,
      .inr ⟨[], [0x05#8], by decide, .inl rfl, by decide, rfl⟩⟩
  · exact ⟨0x1B#8, 0xE1#8, 0x01#8, 0xF0#8, 0x02#8, [0x05#8, 0x01#8], by decide +kernel,
      .inr ⟨[], [0x05#8, 0x01#8], by decide, .inr ⟨_, _, [], rfl, by decide⟩, by decide, rfl⟩⟩

theorem witness_TablesAreIdempotent :
    Instr.secPmt (some 0x100#13) (sectionFields 0xB01D#16) (pmtSec.drop 3) =
      .secPmt (some 0x100#13) (sectionFields 0xB01D#16) (pmtSec.drop 3) := rfl

/-- A unit with a body and a length. -/
def unitOf (len : BitVec 12) (body : Bytes) : SpliceUnit := { spliceUnit with commandLength := len, body := body }

theorem witness_SpliceRowsOnlyEmit :
    fileState.mode ≠ .fatal ∧ (unitOf 1#12 []).commandLength ≠ 0xFFF#12 ∧
      (unitOf 1#12 []).body.length < (unitOf 1#12 []).commandLength.toNat := by decide

/-- A section of table_id 0xFC and 17 bytes with its CRC. -/
def shortBody : Bytes := fill 10 0#8 ++ be32 (crc (sectionBytes 0xFC#8 (sectionFields 0x300E#16) (fill 10 0#8)))

/-- W1; and 13 bytes without the CRC. -/
theorem witness_SectionPathRunsTheSpliceRow :
    (sectionFields 0x3011#16).sectionLength.toNat = (nullSec.drop 3).length ∧ (nullSec.drop 3).length ≤ 4093 ∧
      crcGood (sectionBytes 0xFC#8 (sectionFields 0x3011#16) (nullSec.drop 3)) = true ∧ psi0.mode ≠ .fatal ∧
      formAt psi0 0x102#13 = .scte35 0x102#13 0x100#13 ∧ sectionState.mode = .sec ∧
      ((sectionFields 0x300E#16).sectionLength.toNat = shortBody.length ∧
        crcGood (sectionBytes 0xFC#8 (sectionFields 0x300E#16) shortBody) = true ∧
        ((sectionBytes 0xFC#8 (sectionFields 0x300E#16) shortBody).take (shortBody.length - 1)).length < 14) ∧
      ∃ u, (∀ key, decode key (.splice (some 0x102#13) (some (pcrAt psi0 0x100#13)) (nullSec.take 16)) = .instr (.spliceNull u)) ∧
        ∀ key, decode key (.splice none none (nullSec.take 16)) = .instr (.spliceNull { u with srcPid := none, pcr := none }) :=
  ⟨by decide +kernel, by decide +kernel, by decide +kernel, by decide, by decide +kernel, rfl, by decide +kernel,
    { srcPid := some 0x102#13, pcr := some .noPcr, tableId := 0xFC#8, common := sectionFields 0x3011#16
      protocolVersion := 0#8, encryptionAlgorithm := 0#6, ptsAdjustment := 0#33, cwIndex := 0#8, tier := 0xFFF#12
      commandLength := 0#12, body := [0#8, 0#8] },
    fun _ => rfl, fun _ => rfl⟩

/-- Each clause at a boundary: 2 bytes; 4094 declared; 19 of 20 bytes; the PAT; a section of 3 bytes; the rows without a
PID that W1, the PAT and one byte of stuffing decode to. -/
theorem witness_LiteralPathChecksInOrder :
    (sectionState.mode = .sec ∧ [0xFC#8, 0x30#8].length < 3 ∧
      4093 < ((byteAt [0xFC#8, 0x3F#8, 0xFE#8] 1).extractLsb' 0 4 ++ byteAt [0xFC#8, 0x3F#8, 0xFE#8] 2 : BitVec 12).toNat ∧
      ((nullSec.take 19).length < 3 + 17 ∧
        ((byteAt nullSec 1).extractLsb' 0 4 ++ byteAt nullSec 2 : BitVec 12).toNat = 17) ∧
      (3 + ((byteAt patSec 1).extractLsb' 0 4 ++ byteAt patSec 2 : BitVec 12).toNat ≤ patSec.length ∧ byteAt patSec 0 ≠ 0xFC#8) ∧
      (byteAt [0xFC#8, 0x30#8, 0x00#8] 0 = 0xFC#8 ∧ ([0xFC#8, 0x30#8, 0x00#8].take 3).length < 4)) ∧
    fileState.mode ≠ .fatal ∧
    (∀ k, decode k (.sec none nullSec) = .instr (.secSplice none (sectionFields 0x3011#16) (nullSec.drop 3))) ∧
    (∀ k, decode k (.sec none patSec) = .instr (.secPat none (sectionFields 0xB00D#16) (patSec.drop 3))) ∧
    ∀ k, decode k (.sec none [0xFF#8]) = .instr (.secStuffing none []) :=
  ⟨by decide +kernel, by decide, fun _ => rfl, fun _ => rfl, fun _ => rfl⟩

/-- Descriptors that fit: the one of W2 and an empty one. -/
def someDescriptors : List (Byte × Bytes) := [(0x00#8, bytesOf 8 0x4355454900000135), (0x01#8, [])]

theorem some_descriptors_fit : descriptorsFit someDescriptors := ⟨by decide +kernel, by decide +kernel⟩

/-- W2's value with its length, with 0xFFF, with one less and cut by a byte; a cancelled body with a length over its 5
bytes and with 0xFFF, and cut by a byte; PCRs that annotate it and do not. -/
theorem witness_SpliceInsertRoundTrips :
    let layout := insertBody 0x7F#7 0#1 7#32 insertDetail
    fileState.mode ≠ .fatal ∧ modeEncodable insertDetail.spliceMode = true ∧ modeEncodable componentDetail.spliceMode = true ∧
      descriptorsFit someDescriptors ∧ (unitOf 20#12 []).commandLength.toNat = layout.length ∧
      (unitOf 0xFFF#12 []).commandLength = 0xFFF#12 ∧
      ((unitOf 19#12 []).commandLength.toNat ≠ layout.length ∧ (unitOf 19#12 []).commandLength.toNat ≤ layout.length) ∧
      19 < layout.length ∧
      (unitOf 7#12 []).commandLength.toNat ≤ (insertCancelBytes 7#32 0x7F#7 [0#8, 0#8]).length ∧ 4 < 5 ∧
      annotates none insertDetail.spliceMode none ∧ annotates (some (.seen { base := 0#33, ext := 0#9 })) componentDetail.spliceMode none ∧
      annotates (some (.seen { base := 1936310418#33, ext := 0#9 })) insertDetail.spliceMode (some (-100)) := by
  refine ⟨by decide, by decide, by decide, some_descriptors_fit, by decide +kernel, rfl, by decide +kernel, by decide +kernel,
    by decide, by decide, ⟨?_, fun _ => rfl⟩, ⟨?_, fun _ => rfl⟩, ⟨?_, ?_⟩⟩
  · intro pts p _ h; cases h
  · intro pts p h _; cases h
  · intro pts p h1 h2
    cases h1; cases h2
    exact ⟨-100, by decide, by decide, by decide, rfl⟩
  · intro h; exact absurd rfl (h _ _ rfl)

/-- Two bytes under a length of 2, and none; a loop of one byte, one whose length exceeds it by one, one that ends in half
an entry and one in an entry too long. -/
theorem witness_EmptyCommandsReportAnyBody :
    fileState.mode ≠ .fatal ∧ descriptorsFit someDescriptors ∧ (∀ d ∈ someDescriptors, d.2.length ≤ 255) ∧
      ((unitOf 2#12 []).commandLength ≠ 0xFFF#12 ∧ (unitOf 2#12 []).commandLength.toNat = [0xAA#8, 0xBB#8].length) ∧
      (unitOf 0#12 []).commandLength.toNat = ([] : Bytes).length ∧ (unitOf 0xFFF#12 []).commandLength = 0xFFF#12 ∧
      [0#8].length < 2 ∧ ([] : Bytes).length < (1#16).toNat ∧
      (brokenEntry [0x01#8] ∧ (13#16).toNat = (entryBytes someDescriptors ++ [0x01#8]).length) ∧
      brokenEntry [0x01#8, 0x01#8] :=
  ⟨by decide, some_descriptors_fit, some_descriptors_fit.1, by decide, by decide, rfl, by decide, by decide,
    ⟨.inl rfl, by decide +kernel⟩, .inr ⟨_, _, [], rfl, by decide⟩⟩

theorem witness_OpaqueCommandsKeepTheirBody :
    fileState.mode ≠ .fatal ∧ descriptorsFit someDescriptors ∧ (∀ d ∈ someDescriptors, d.2.length ≤ 255) ∧
      ((unitOf 1#12 []).commandLength ≠ 0xFFF#12 ∧ (unitOf 1#12 []).commandLength.toNat = [0xAA#8].length) ∧
      ([0#8].length < 2 ∧ ([] : Bytes).length < (1#16).toNat) ∧
      (brokenEntry [0x01#8] ∧ (13#16).toNat = (entryBytes someDescriptors ++ [0x01#8]).length) ∧
      (unitOf 0xFFF#12 ([0xAA#8] ++ [0#8, 0#8])).body = [0xAA#8] ++ [0#8, 0#8] ∧ ¬ (0#8 = 0#8 ∧ 1#8 = 0#8) ∧
      (unitOf 0xFFF#12 [0#8]).body.length < 2 :=
  ⟨by decide, some_descriptors_fit, some_descriptors_fit.1, by decide, by decide, ⟨.inl rfl, by decide +kernel⟩, rfl,
    by decide, by decide⟩

/-- Lengths 5 and 1, one off, 0xFFF, cut by a byte. -/
theorem witness_TimeSignalIsAnnotatedByTheSignedDistance :
    fileState.mode ≠ .fatal ∧ SpliceTime.timed (some 400#33) ∈ [SpliceTime.timed (some 400#33), .timed none] ∧
      descriptorsFit someDescriptors ∧
      (unitOf 5#12 []).commandLength.toNat = (timeBytes 0x7F#7 (.timed (some 400#33))).length ∧
      (unitOf 1#12 []).commandLength.toNat = (timeBytes 0#7 (.timed none)).length ∧
      (unitOf 0xFFF#12 []).commandLength = 0xFFF#12 ∧
      (let u := unitOf 6#12 (timeBytes 0x7F#7 (.timed (some 400#33)) ++ [0#8])
       u.commandLength ≠ 0xFFF#12 ∧ u.commandLength.toNat ≠ 5 ∧ u.commandLength.toNat ≤ u.body.length) ∧
      4 < (timeBytes 0x7F#7 (.timed (some 400#33))).length :=
  ⟨by decide, by decide, some_descriptors_fit, by decide, by decide, rfl, by decide, by decide⟩

/-- The four forms of a body that is not cancelled, one cut by its last byte, one by the last of its duration. -/
theorem witness_InsertRowsParseTheirLayout :
    let imm : SpliceMode := .program .immediate
    let cs : SpliceMode := .components [{ tag := 5#8, time := .immediate }]
    fileState.mode ≠ .fatal ∧ modeEncodable imm = true ∧ modeEncodable cs = true ∧
      (modeFlag insertDetail.spliceMode = 1#1 ∧ immediateFlag 0#1 insertDetail.spliceMode = 0#1) ∧
      (modeFlag imm = 1#1 ∧ immediateFlag 0#1 imm = 1#1) ∧
      (modeFlag componentDetail.spliceMode = 0#1 ∧ immediateFlag 0#1 componentDetail.spliceMode = 0#1) ∧
      (modeFlag cs = 0#1 ∧ immediateFlag 0#1 cs = 1#1) ∧ insertDetail.duration.isSome = true ∧
      13 < (insertRest 0x7F#7 insertDetail).length ∧ 9 + 4 < (insertRest 0x7F#7 insertDetail).length := by decide +kernel

theorem witness_SpliceTimeFormsAreRead : fileState.mode ≠ .fatal ∧ [0#8, 0#8, 0#8].length < 4 := by decide

/-- Lengths that just fit and just do not. -/
theorem witness_DescriptorRowsCheckTheirLoop :
    fileState.mode ≠ .fatal ∧ (2#8).toNat ≤ [0#8, 0#8].length ∧ [0#8].length < (2#8).toNat ∧ (4#8).toNat ≤ 4 + ([] : Bytes).length ∧
      4 + ([] : Bytes).length < (5#8).toNat := by decide

theorem witness_CrcOfAGoodSectionIsZero : 4 ≤ patSec.length ∧ crcGood patSec = true := by decide +kernel

theorem witness_BitReadsAreBigEndianFields :
    (readerAt 4).mode ≠ .fatal ∧ (readerAt 4).br.pos + 12 ≤ 8 * (readerAt 4).br.buf.length ∧
      8 * (readerAt 4).br.buf.length < (readerAt 4).br.pos + 13 := by decide

theorem witness_SplitReadsComposeToOneRead :
    (readerAt 0).mode ≠ .fatal ∧ (readerAt 0).br = { buf := [0xA5#8, 0xC3#8], pos := 0 } ∧ 20 + 44 < 65 ∧
      0 + 3 + 13 ≤ 8 * [0xA5#8, 0xC3#8].length ∧ 8 % 8 = 0 ∧ 8 + 8 ≤ 8 * [0xA5#8, 0xC3#8].length := by decide

theorem witness_BitReaderCalls :
    (readerAt 9).mode ≠ .fatal ∧ (readerAt 9).br.pos + 7 ≤ 8 * (readerAt 9).br.buf.length ∧
      8 * (readerAt 9).br.buf.length < (readerAt 9).br.pos + 8 := by decide

theorem witness_RawDatagramIsAPush :
    rawState.mode = .net ∧ rawState.cfg.extractLsb' 2 2 = 0#2 ∧ rawState.pktbuf = [] ∧
      exec (.mainRaw [0x47#8]) rawState = .next { rawState with pktbuf := [0x47#8] } ∧
      { rawState with pktbuf := [0x47#8] }.events = rawState.events ++ [] :=
  ⟨rfl, by decide, rfl, rfl, rfl⟩

theorem witness_RtpContinuityIsReportedThenPushed :
    rtpState.mode ≠ .fatal ∧ rtpState.mode = .net ∧ rtpState.cfg = 0x0A#8 := by decide

/-- 11 bytes; version 1; padding; extension; one CSRC. -/
theorem witness_MalformedRtpOnTheMainPortIsDropped :
    fecState.mode ≠ .fatal ∧ fecState.mode = .net ∧ fecState.cfg.extractLsb' 3 1 = 1#1 ∧ rtpState.cfg.extractLsb' 2 1 = 0#1 ∧
      (fill 11 0x80#8).length < 12 ∧ (0x40#8).extractLsb' 6 2 ≠ 2#2 ∧ (0xA0#8).extractLsb' 5 1 ≠ 0#1 ∧
      (0x90#8).extractLsb' 4 1 ≠ 0#1 ∧ (0x81#8).extractLsb' 0 4 ≠ 0#4 ∧ (fill 12 0x40#8).head? = some 0x40#8 ∧
      (fill 12 0x40#8).length ≤ fecState.params.fecSlotBytes := by decide

theorem witness_OversizeDatagramIsRefused :
    fecState.mode = .net ∧ fecState.cfg.extractLsb' 2 1 = 1#1 ∧ fecState.params.fecSlotBytes < (fill 1501 0#8).length := by
  refine ⟨rfl, by decide, ?_⟩
  rw [fill_length]
  decide

theorem witness_ParityDatagramsAreCheckedThenTaken :
    fecState.mode = .net ∧ fecState.cfg.extractLsb' 2 1 = 1#1 ∧ (fecBytes parityUnit).length ≤ fecState.params.fecSlotBytes ∧
      parityUnit.offset ≠ 0#8 ∧ parityUnit.na ≠ 0#8 ∧ (fill 27 0x80#8).length < 28 ∧ (fill 28 0x40#8).head? ≠ some 0x80#8 ∧
      (fecBytes { parityUnit with offset := 0#8 })[25]? = some 0#8 ∧ (fecBytes { parityUnit with na := 0#8 })[26]? = some 0#8 := by
  decide +kernel

theorem waiting_inv : FecInv waitingState := by
  refine ⟨by decide, by decide, by decide, ?_, by decide, by decide⟩
  intro hi hh m hm
  cases hh
  rcases fec_held m hm with rfl | rfl | rfl <;> decide

/-- 43 is FEC_RETAIN behind 107; 106 is stored. -/
theorem witness_OldAndDuplicateMediaAreDroppedSilently :
    fecBusy.mode ≠ .fatal ∧ FecInv fecBusy ∧ fecBusy.fHi = some 107#16 ∧
      (fecBusy.params.fecRetain ≤ dist 43#16 107#16 ∧ ¬ (0 < dist 107#16 43#16 ∧ dist 107#16 43#16 < 32768)) ∧
      (tableGet (106#16).toNat fecBusy.fStore).isSome = true :=
  ⟨by decide, fec_busy_inv, rfl, by decide, by decide +kernel⟩

/-- Original payloads: the stored ones, and 105. -/
def originals (o : SeqNum) : Bytes := if o = 105#16 then bytesOf 4 0x6996dfa5 else (tableGet o.toNat heldMedia).getD []

/-- ROW1 of section 9: 104 to 107. -/
def rowUnit : FecUnit := { parityUnit with snbase := 104#16, offset := 1#8, na := 4#8, payload := bytesOf 4 0x00000c00 }

/-- 106 to 108, of which 108 is ahead of F_HI and missing. -/
def aheadUnit : FecUnit :=
  { rowUnit with snbase := 106#16, na := 3#8, payload := bytesOf 4 0x01010b01, lenrec := 0#16 }

theorem row_group : fecGroup rowUnit = [104#16, 105#16, 106#16, 107#16] := by decide +kernel

theorem ahead_group : fecGroup aheadUnit = [106#16, 107#16, 108#16] := by decide +kernel

/-- The originals of a group that are held, but for one. -/
theorem others_held {m : SeqNum} {g : List SeqNum}
    (h : g.all (fun o => o == m || tableGet o.toNat heldMedia == some (originals o)) = true) :
    ∀ o ∈ g, o ≠ m → tableGet o.toNat heldMedia = some (originals o) := by
  intro o ho hm
  have := List.all_eq_true.mp h o ho
  simpa [hm] using this

theorem short_originals {g : List SeqNum} (h : g.all (fun o => decide ((originals o).length ≤ 4)) = true) :
    ∀ o ∈ g, (originals o).length < 65536 := fun o ho =>
  Nat.lt_of_le_of_lt (of_decide_eq_true (List.all_eq_true.mp h o ho)) (by decide)

theorem row_others : ∀ o ∈ fecGroup rowUnit, o ≠ 105#16 → tableGet o.toNat heldMedia = some (originals o) :=
  row_group ▸ others_held (by decide +kernel)

/-- `waitingState` before 107 came, ROW1 waiting for 105 and 107. -/
def rowWaiting : State :=
  { waitingState with fHi := some 106#16, fStore := heldMedia.take 2, fPar := [recordOf .row rowUnit] }

theorem row_waiting_held (m : SeqNum) (p : Bytes) (h : tableGet m.toNat rowWaiting.fStore = some p) :
    p = originals m ∧ (m = 104#16 ∨ m = 106#16) := by
  have e := tableGet_mem h
  simp only [rowWaiting, heldMedia, List.take, List.mem_cons, Prod.mk.injEq, List.not_mem_nil, or_false] at e
  have hp : ∀ n, m.toNat = n → m = BitVec.ofNat 16 n := fun n h => by simp [← h]
  rcases e with ⟨k, rfl⟩ | ⟨k, rfl⟩ <;> rw [hp _ k]
  · exact ⟨by decide +kernel, .inl rfl⟩
  · exact ⟨by decide +kernel, .inr rfl⟩

theorem row_waiting_inv : FecInv rowWaiting := by
  refine ⟨by decide, by decide, by decide, ?_, by decide, by decide⟩
  intro hi hh m hm
  cases hh
  obtain ⟨p, hp⟩ := Option.isSome_iff_exists.mp hm
  rcases (row_waiting_held m p hp).2 with rfl | rfl <;> decide

theorem row_waiting_settled : fecSettled rowWaiting := by
  intro hi q hh hq
  cases hh; cases hq
  decide +kernel

theorem row_from : (∀ o ∈ fecGroup rowUnit, (originals o).length < 65536) ∧
    rowUnit.payload = parityPayload ((fecGroup rowUnit).map originals) ∧
    rowUnit.lenrec = parityLength ((fecGroup rowUnit).map originals) :=
  ⟨row_group ▸ short_originals (by decide +kernel), by rw [row_group]; decide +kernel, by rw [row_group]; decide +kernel⟩

theorem row_waiting_from : fecFrom originals rowWaiting.fPar rowWaiting := by
  refine ⟨fun o p h => (row_waiting_held o p h).1, fun r hr => ?_⟩
  simp only [rowWaiting, List.mem_singleton] at hr
  subst hr; exact row_from

theorem row_near : ∀ o ∈ fecGroup rowUnit, noTurn 106#16 o rowWaiting := by
  intro o ho
  simp only [row_group, List.mem_cons, List.not_mem_nil, or_false] at ho
  rcases ho with rfl | rfl | rfl | rfl
  · exact .inl (by decide)
  · exact .inl (by decide)
  · exact .inl (by decide)
  · exact .inr (by decide)

/-- An empty window; one at 107 into which 108, one ahead, and 44, the last inside FEC_RETAIN, come; one at 106 into which
107 comes, ROW1 waiting for 105 and 107. -/
theorem witness_FirstMediaPacketStartsDelivery :
    (fecState.mode ≠ .fatal ∧ fecState.params.Valid ∧ fecState.fHi = none ∧ fecState.fNext = none ∧ fecState.fStore = [] ∧
      fecState.fPar = [] ∧ fecState.mode = .net ∧ fecState.cfg = 0x0E#8 ∧ 12 + 188 ≤ fecState.params.fecSlotBytes) ∧
    (waitingState.mode ≠ .fatal ∧ waitingState.fPar = [] ∧ waitingState.fHi = some 107#16 ∧ waitingState.fNext = some 105#16) ∧
    FecInv waitingState ∧ stored waitingState 108#16 = false ∧ (0 < dist 107#16 108#16 ∧ dist 107#16 108#16 < 32768) ∧
    stored waitingState 44#16 = false ∧ dist 44#16 107#16 < waitingState.params.fecRetain ∧
    (rowWaiting.mode ≠ .fatal ∧ rowWaiting.fHi = some 106#16 ∧ rowWaiting.fNext = some 105#16) ∧ FecInv rowWaiting ∧
    fecSettled rowWaiting ∧ stored rowWaiting 107#16 = false ∧ (0 < dist 106#16 107#16 ∧ dist 106#16 107#16 < 32768) ∧
    bytesOf 4 0x6b94eda7 = originals 107#16 ∧ fecFrom originals rowWaiting.fPar rowWaiting ∧ noTurn 106#16 107#16 rowWaiting ∧
    ∀ r ∈ rowWaiting.fPar, ∀ o ∈ recGroup r, noTurn 106#16 o rowWaiting :=
  ⟨by decide, by decide, waiting_inv, rfl, by decide, rfl, by decide, by decide,
    row_waiting_inv, row_waiting_settled, rfl, by decide, by decide +kernel, row_waiting_from, .inr (by decide),
    fun r hr => by
      simp only [rowWaiting, List.mem_singleton] at hr
      subst hr; exact row_near⟩

/-- 106 and 107, of which `rowWaiting` misses 107: rebuilt, it lets ROW1 rebuild 105 (F3, R336). -/
def pairUnit : FecUnit := { rowUnit with snbase := 106#16, na := 2#8, payload := bytesOf 4 0x01010b01 }

theorem test_fec_one_rebuild_makes_another :
    (after rowWaiting (.fec .col (fecBytes pairUnit))).map (fun t => (t.fStore.map Prod.fst, t.fPar, t.fNext, t.events)) =
      some ([104, 105, 106, 107], [], some 108#16, []) := by decide +kernel

theorem pair_group : fecGroup pairUnit = [106#16, 107#16] := by decide +kernel

theorem pair_own : (∀ o ∈ fecGroup pairUnit, (originals o).length < 65536) ∧
    pairUnit.payload = parityPayload ((fecGroup pairUnit).map originals) ∧
    pairUnit.lenrec = parityLength ((fecGroup pairUnit).map originals) :=
  ⟨pair_group ▸ short_originals (by decide +kernel), by rw [pair_group]; decide +kernel, by rw [pair_group]; decide +kernel⟩

theorem pair_from : fecFrom originals (rowWaiting.fPar ++ [recordOf .col pairUnit]) rowWaiting := by
  refine ⟨row_waiting_from.1, fun r hr => ?_⟩
  simp only [rowWaiting, List.cons_append, List.nil_append, List.mem_cons, List.not_mem_nil, or_false] at hr
  rcases hr with rfl | rfl
  · exact row_from
  · exact pair_own

theorem pair_near : ∀ r ∈ rowWaiting.fPar ++ [recordOf .col pairUnit], ∀ o ∈ recGroup r, noTurn 106#16 o rowWaiting := by
  intro r hr
  simp only [rowWaiting, List.cons_append, List.nil_append, List.mem_cons, List.not_mem_nil, or_false] at hr
  rcases hr with rfl | rfl
  · exact row_near
  · intro o ho
    change o ∈ fecGroup pairUnit at ho
    simp only [pair_group, List.mem_cons, List.not_mem_nil, or_false] at ho
    rcases ho with rfl | rfl
    · exact .inl (by decide)
    · exact .inr (by decide)

/-- ROW1 with 105 missing inside the window; a unit whose missing member is the one next after F_HI; a parity unit beside
the waiting ROW1. -/
theorem witness_ParityRebuildsTheOneLostPacket :
    (waitingState.mode ≠ .fatal ∧ waitingState.fPar = [] ∧ waitingState.fHi = some 107#16 ∧ waitingState.fNext = some 105#16) ∧
      FecInv waitingState ∧
      (rowUnit.offset ≠ 0#8 ∧ rowUnit.na ≠ 0#8 ∧ (∀ o ∈ fecGroup rowUnit, (originals o).length < 65536) ∧
        rowUnit.payload = parityPayload ((fecGroup rowUnit).map originals) ∧
        rowUnit.lenrec = parityLength ((fecGroup rowUnit).map originals) ∧ 105#16 ∈ fecGroup rowUnit ∧
        stored waitingState 105#16 = false ∧ dist 105#16 107#16 < waitingState.params.fecRetain) ∧
      (∀ o ∈ fecGroup rowUnit, o ≠ 105#16 → tableGet o.toNat waitingState.fStore = some (originals o)) ∧
      (aheadUnit.offset ≠ 0#8 ∧ aheadUnit.na ≠ 0#8 ∧ (∀ o ∈ fecGroup aheadUnit, (originals o).length < 65536) ∧
        aheadUnit.payload = parityPayload ((fecGroup aheadUnit).map originals) ∧
        aheadUnit.lenrec = parityLength ((fecGroup aheadUnit).map originals) ∧ 108#16 ∈ fecGroup aheadUnit ∧
        stored waitingState 108#16 = false ∧ 0 < dist 107#16 108#16 ∧ dist 107#16 108#16 < 32768) ∧
      (∀ o ∈ fecGroup aheadUnit, o ≠ 108#16 → tableGet o.toNat waitingState.fStore = some (originals o)) ∧
      (rowWaiting.mode ≠ .fatal ∧ FecInv rowWaiting ∧ rowWaiting.fHi = some 106#16 ∧ rowWaiting.fNext = some 105#16 ∧
        pairUnit.offset ≠ 0#8 ∧ pairUnit.na ≠ 0#8 ∧ fecSettled rowWaiting ∧
        rowWaiting.fPar.length < rowWaiting.params.fecParCap) ∧
      fecFrom originals (rowWaiting.fPar ++ [recordOf .col pairUnit]) rowWaiting ∧
      ∀ r ∈ rowWaiting.fPar ++ [recordOf .col pairUnit], ∀ o ∈ recGroup r, noTurn 106#16 o rowWaiting :=
  ⟨by decide, waiting_inv,
    ⟨by decide, by decide, row_group ▸ short_originals (by decide +kernel), by rw [row_group]; decide +kernel,
      by rw [row_group]; decide +kernel, by simp [row_group], rfl, by decide⟩, row_others,
    ⟨by decide, by decide, ahead_group ▸ short_originals (by decide +kernel), by rw [ahead_group]; decide +kernel,
      by rw [ahead_group]; decide +kernel, by simp [ahead_group], rfl, by decide, by decide⟩,
    ahead_group ▸ others_held (by decide +kernel),
    ⟨by decide, row_waiting_inv, rfl, rfl, by decide, by decide, row_waiting_settled, by decide⟩, pair_from, pair_near⟩

/-- COL2 of section 9. -/
def colUnit : FecUnit := { parityUnit with snbase := 102#16, offset := 4#8, na := 4#8 }

theorem col_group : fecGroup colUnit = [102#16, 106#16, 110#16, 114#16] := by decide +kernel

theorem col_inside : ∀ o ∈ fecGroup colUnit, dist o 107#16 < fecBusy.params.fecRetain ∨ 32768 ≤ dist o 107#16 := by
  intro o ho
  simp only [col_group, List.mem_cons, List.not_mem_nil, or_false] at ho
  rcases ho with rfl | rfl | rfl | rfl
  · exact .inl (by decide)
  · exact .inl (by decide)
  · exact .inr (by decide)
  · exact .inr (by decide)

theorem row_inside : ∀ o ∈ fecGroup rowUnit, dist o 107#16 < fecBusy.params.fecRetain ∨ 32768 ≤ dist o 107#16 := by
  intro o ho
  simp only [row_group, List.mem_cons, List.not_mem_nil, or_false] at ho
  rcases ho with rfl | rfl | rfl | rfl <;> exact .inl (by decide)

/-- `fecBusy` with room for one parity record only. -/
def fecFull : State := { fecBusy with params := { fecBusy.params with fecParCap := 1 } }

/-- 102 and 110 are missing, 110 ahead of F_HI; with room and without; no media yet; ROW1 with a recovered length of 13,
and with a payload shorter than a member; 106 and 107, both stored; 43, FEC_RETAIN behind 107. -/
theorem witness_TwoLossesAreNotRebuilt :
    (fecBusy.mode ≠ .fatal ∧ fecBusy.fHi = some 107#16 ∧ fecBusy.fPar.length < fecBusy.params.fecParCap) ∧ FecInv fecBusy ∧
      fecSettled fecBusy ∧ (fecState.mode ≠ .fatal ∧ FecInv fecState ∧ fecState.fHi = none) ∧
      (colUnit.offset ≠ 0#8 ∧ colUnit.na ≠ 0#8 ∧ rowUnit.offset ≠ 0#8 ∧ rowUnit.na ≠ 0#8) ∧
      ((∀ o ∈ fecGroup colUnit, dist o 107#16 < fecBusy.params.fecRetain ∨ 32768 ≤ dist o 107#16) ∧
        102#16 ∈ fecGroup colUnit ∧ 110#16 ∈ fecGroup colUnit ∧ 102#16 ≠ 110#16 ∧ stored fecBusy 102#16 = false ∧
        stored fecBusy 110#16 = false) ∧
      (FecInv fecFull ∧ fecSettled fecFull ∧ ¬ fecFull.fPar.length < fecFull.params.fecParCap) ∧
      ((∀ o ∈ fecGroup rowUnit, dist o 107#16 < fecBusy.params.fecRetain ∨ 32768 ≤ dist o 107#16) ∧
        105#16 ∈ fecGroup rowUnit ∧ stored fecBusy 105#16 = false ∧
        (∀ o ∈ fecGroup rowUnit, o ≠ 105#16 → tableGet o.toNat fecBusy.fStore = some (originals o)) ∧
        rowUnit.payload.length <
          (9#16 ^^^ parityLength (((fecGroup rowUnit).filter fun o => o != 105#16).map originals)).toNat ∧
        104#16 ∈ fecGroup rowUnit ∧ (fill 3 0#8).length < (originals 104#16).length) ∧
      (∀ o ∈ fecGroup pairUnit, stored fecBusy o = true) ∧
      (43#16 ∈ fecGroup { pairUnit with snbase := 43#16 } ∧ leftWindow 107#16 43#16 fecBusy) :=
  ⟨by decide, fec_busy_inv, fec_busy_settled,
    ⟨by decide, ⟨by decide, by decide, by decide, (fun _ h => by cases h), by decide, by decide⟩, rfl⟩, by decide,
    ⟨col_inside, by simp [col_group], by simp [col_group], by decide, rfl, rfl⟩,
    ⟨⟨by decide, by decide, by decide, fec_busy_inv.2.2.2.1, by decide, by decide⟩, fec_busy_settled, by decide⟩,
    ⟨row_inside, by simp [row_group], rfl, row_others, by rw [row_group]; decide +kernel,
      by simp [row_group], by decide +kernel⟩,
    fun o ho => by
      simp only [pair_group, List.mem_cons, List.not_mem_nil, or_false] at ho
      rcases ho with rfl | rfl <;> rfl, by decide +kernel, by decide, by decide⟩

theorem witness_SectionRowsCompleteWithTheirFrame :
    psi0.mode ≠ .fatal ∧ (routed 0x102#13 1#1 0#4 [0#8]).payload = some [0#8] ∧ formAt psi0 0#13 = .pat ∧
      formAt psi0 0x100#13 = .pmt 1#16 ∧ formAt psi0 0x102#13 = .scte35 0x102#13 0x100#13 ∧ namedTableId 0x70#8 = false := by
  decide +kernel

end Sys2Proof.Tests
end

section
/-! PROOFS. The bit reader's value as a big-endian field, and the reset state. -/

namespace Sys2Proof.Machine

/-! ## Bytes as one big-endian number (R14, R60) -/

/-- The running value of `beNat` enters as the digits before the bytes. -/
theorem foldl_beNat (bs : Bytes) (a : Nat) :
    bs.foldl (fun a b => 256 * a + b.toNat) a = a * 2 ^ (8 * bs.length) + beNat bs := by
  induction bs generalizing a with
  | nil => simp [beNat]
  | cons b rest ih =>
    simp only [beNat, List.foldl_cons, List.length_cons, ih (256 * a + b.toNat), ih (256 * 0 + b.toNat)]
    rw [Nat.mul_succ, Nat.pow_add]
    ring

@[simp] theorem beNat_nil : beNat [] = 0 := rfl

/-- The first byte is the most significant. -/
theorem beNat_cons (b : Byte) (bs : Bytes) : beNat (b :: bs) = 2 ^ (8 * bs.length) * b.toNat + beNat bs := by
  have h := foldl_beNat bs (256 * 0 + b.toNat)
  simp only [Nat.mul_zero, Nat.zero_add, Nat.mul_comm b.toNat] at h
  simpa [beNat] using h

theorem beNat_lt (bs : Bytes) : beNat bs < 2 ^ (8 * bs.length) := by
  induction bs with
  | nil => simp
  | cons b rest ih =>
    have hb : b.toNat + 1 ≤ 2 ^ 8 := b.isLt
    calc beNat (b :: rest) < 2 ^ (8 * rest.length) * (b.toNat + 1) := by rw [beNat_cons, Nat.mul_succ]; omega
      _ ≤ 2 ^ (8 * rest.length) * 2 ^ 8 := Nat.mul_le_mul_left _ hb
      _ = 2 ^ (8 * (b :: rest).length) := by rw [← Nat.pow_add, List.length_cons, Nat.mul_succ]

/-- The bit at a position is a binary digit of the whole buffer's number, counted from its last (R14). -/
theorem bitAt_eq_testBit {buf : Bytes} {p : Nat} (h : p < 8 * buf.length) :
    bitAt buf p = ((beNat buf).testBit (8 * buf.length - 1 - p)).toNat := by
  induction buf generalizing p with
  | nil => simp at h
  | cons b rest ih =>
    rw [List.length_cons] at h ⊢
    rw [beNat_cons, Nat.testBit_two_pow_mul_add _ (beNat_lt rest)]
    by_cases hp : p < 8
    · have hbyte : byteAt (b :: rest) (p / 8) = b := by rw [Nat.div_eq_of_lt hp]; rfl
      rw [if_neg (by omega), show 8 * (rest.length + 1) - 1 - p - 8 * rest.length = 7 - p by omega, Nat.toNat_testBit,
        bitAt, hbyte, Nat.mod_eq_of_lt hp]
    · obtain ⟨q, rfl⟩ : ∃ q, p = q + 8 := ⟨p - 8, by omega⟩
      have hbyte : bitAt (b :: rest) (q + 8) = bitAt rest q := by
        rw [bitAt, bitAt, Nat.add_div_right _ (by decide), Nat.add_mod_right]; rfl
      rw [if_pos (by omega), hbyte, ih (by omega),
        show 8 * (rest.length + 1) - 1 - (q + 8) = 8 * rest.length - 1 - q by omega]

/-- A field inside the buffer is the digits of the whole buffer's number at its place (R132). -/
theorem bitsAt_eq_digits {buf : Bytes} {p n : Nat} (h : p + n ≤ 8 * buf.length) :
    bitsAt buf p n = beNat buf / 2 ^ (8 * buf.length - p - n) % 2 ^ n := by
  induction n with
  | zero => simp [bitsAt, Nat.mod_one]
  | succ n ih =>
    obtain ⟨k, hk⟩ : ∃ k, 8 * buf.length - p = k + n + 1 := ⟨8 * buf.length - p - n - 1, by omega⟩
    have hlast : bitAt buf (p + n) = beNat buf / 2 ^ k % 2 := by
      rw [bitAt_eq_testBit (by omega), Nat.toNat_testBit, show 8 * buf.length - 1 - (p + n) = k by omega]
    rw [bitsAt, ih (by omega), hlast, hk, show k + n + 1 - n = k + 1 by omega, show k + n + 1 - (n + 1) = k by omega,
      Nat.pow_succ 2 k, ← Nat.div_div_eq_div_mul, Nat.pow_succ', Nat.mod_mul, Nat.add_comm]

/-- What BR.READ can do: the field at the cursor and the moved cursor, or an underrun (R132). -/
theorem execBrRead_live {s : State} (hm : s.mode ≠ .fatal) (n : Fin 65) :
    execBrRead n s = .next (if s.br.pos + n.val ≤ 8 * s.br.buf.length then
      { s with br := { buf := s.br.buf, pos := s.br.pos + n.val }, result := .value (bitsAt s.br.buf s.br.pos n.val) }
      else { s with result := .underrun }) := by
  rw [execBrRead, inUnit_live hm, brRead_eq]
  by_cases h : s.br.pos + n.val ≤ 8 * s.br.buf.length <;> simp only [h, ↓reduceIte]

/-- Settles O48: the field the reader builds bit by bit is the number's digits (`bitsAt_eq_digits`). -/
theorem bitReadsAreBigEndianFields : Obligations.BitReadsAreBigEndianFields := by
  intro n s hm total
  have hread : exec (.brRead n) s = execBrRead n s := rfl
  rw [hread, execBrRead_live hm]
  refine ⟨fun hin => ?_, fun hout => ?_⟩
  · rw [if_pos hin, bitsAt_eq_digits hin]
  · rw [if_neg (Nat.not_le.mpr hout)]

/-! ## The reset state -/

theorem slotAt_reset (p : Pid) : slotAt State.reset p = .empty := rfl

theorem fecInv_reset : FecInv State.reset :=
  ⟨by decide, Iff.rfl, fun _ => rfl, (fun _ h => by cases h), by decide, by decide⟩

/-- Settles O20: no slot is a filter, neither FEC number is set, and the buffers are empty. -/
theorem invariantsHoldAtReset : Obligations.InvariantsHoldAtReset := by
  refine ⟨memory_wf_reset, fun p r h => ?_, fun p => ?_, ⟨rfl, rfl⟩, fecInv_reset, (fun _ _ h => by cases h),
    Nat.zero_le _, trivial⟩
  · simp [reasmAt, slotAt_reset, Slot.reasm] at h
  · simp [formAt, slotAt_reset, Slot.form]

end Sys2Proof.Machine
end

section
/-! PROOFS. The decoder answers well-formed instructions only. -/

namespace Sys2Proof

theorem wf_of_decodeHost {code : Byte} {operand : Bytes} {i : Instr} (h : decodeHost code operand = .instr i) :
    i.wf = true := by
  unfold decodeHost at h
  split at h
  · split at h <;> cases h; rfl
  split at h
  · split at h <;> cases h; rfl
  split at h
  · cases h; rfl
  split at h
  · split at h <;> cases h; rfl
  iterate 4
    split at h
    · cases h; rfl
  split at h
  · split at h <;> cases h; rfl
  · cases h
    simp only [Instr.wf, illegalCode, decide_eq_true_eq]
    bv_omega

theorem wf_decodeCfg (cfg : Byte) : (decodeCfg cfg).wf = true := by
  unfold decodeCfg
  iterate 5
    split
    · rfl
  simp [Instr.wf, legalCfg, *]

theorem wf_of_decodeTs {b : Bytes} {i : Instr} (h : decodeTs b = .instr i) : i.wf = true := by
  unfold decodeTs at h
  split at h
  · cases h
  next c rest =>
  split at h
  · split at h
    · next body =>
      split at h
      · next hlen =>
        simp only at h
        repeat' split at h
        all_goals cases h; simp [Instr.wf, hlen]
      · cases h
    · cases h
  · next hc => cases h; simp [Instr.wf, hc]

theorem wf_of_decodeRoute {f : Form} {u : RouteUnit} {i : Instr} (h : decodeRoute f u = .instr i) : i.wf = true := by
  unfold decodeRoute at h
  split at h
  · next hu => cases f <;> cases h <;> exact hu
  · cases h

theorem wf_of_decodeSection {pid : Option Pid} {b : Bytes} {i : Instr} (h : decodeSection pid b = .instr i) :
    i.wf = true := by
  unfold decodeSection at h
  split at h
  · cases h
  split at h
  · cases h; rfl
  split at h
  · simp only at h
    split at h
    · next hbody =>
      iterate 3
        split at h
        · cases h; exact hbody
      cases h
      simp [Instr.wf, namedTableId, *]
    · cases h
  · cases h

theorem wf_of_decodeSplice {src : Option Pid} {pcr : Option PcrEntry} {b : Bytes} {i : Instr}
    (h : decodeSplice src pcr b = .instr i) : i.wf = true := by
  unfold decodeSplice at h
  split at h
  · cases h
  iterate 7
    split at h
    · cases h; rfl
  cases h
  simp [Instr.wf, namedCommand, *]

theorem wf_of_decodeInsert {src : Option Pid} {b : Bytes} {i : Instr} (h : decodeInsert src b = .instr i) :
    i.wf = true := by
  unfold decodeInsert at h
  simp only at h
  repeat' split at h
  all_goals cases h <;> rfl

theorem wf_of_decodeDuration {src : Option Pid} {b : Bytes} {i : Instr} (h : decodeDuration src b = .instr i) :
    i.wf = true := by
  unfold decodeDuration at h
  repeat' split at h
  all_goals cases h <;> rfl

theorem wf_of_decodeSpliceTime {src : Option Pid} {b : Bytes} {i : Instr} (h : decodeSpliceTime src b = .instr i) :
    i.wf = true := by
  unfold decodeSpliceTime at h
  repeat' split at h
  all_goals cases h <;> rfl

theorem wf_of_decodeDescriptor {src : Option Pid} {b : Bytes} {i : Instr} (h : decodeDescriptor src b = .instr i) :
    i.wf = true := by
  unfold decodeDescriptor at h
  split at h <;> cases h; rfl

theorem wf_of_decodePmtDescriptor {pid : Pid} {b : Bytes} {i : Instr} (h : decodePmtDescriptor pid b = .instr i) :
    i.wf = true := by
  unfold decodePmtDescriptor at h
  split at h
  · split at h
    · next hc => cases h; exact decide_eq_true hc.2.1
    · cases h
  · cases h

theorem wf_of_decodeMain {cfg : Byte} {g : Bytes} {i : Instr} (h : decodeMain cfg g = .instr i) : i.wf = true := by
  unfold decodeMain at h
  repeat' split at h
  all_goals cases h <;> rfl

/-- A list that matches no pattern of `n` elements and a rest is shorter than `n`: the form of the decoder's last arms. -/
theorem length_lt_of_ne_append {n : Nat} {g : Bytes} (h : ∀ p q : Bytes, p.length = n → g ≠ p ++ q) : g.length < n := by
  by_contra hge
  exact h (g.take n) (g.drop n) (by simp; omega) (by simp)

/-- RTP.PARSE refuses only the datagrams of R303. -/
theorem rtpBad_of_parseRtp_eq_none {g : Bytes} (h : parseRtp g = none) : rtpBad g = true := by
  unfold parseRtp at h
  split at h
  · split at h
    · cases h
    · next hv => simp [rtpBad, hv]
  · next hshort =>
    have hlen : g.length < 12 := length_lt_of_ne_append fun p q hp hg => by
      match p, hp with
      | [_, _, _, _, _, _, _, _, _, _, _, _], _ => exact hshort _ _ _ _ _ _ _ _ _ _ _ _ q hg
    simp [rtpBad, hlen]

/-- The payload that RTP.PARSE answers is what follows 12 bytes (R302). -/
theorem parseRtp_eq_some {g f : Bytes} {r : RtpHeader} (h : parseRtp g = some (r, f)) :
    ∃ p : Bytes, p.length = 12 ∧ g = p ++ f := by
  unfold parseRtp at h
  split at h
  · split at h
    · cases h
      exact ⟨[_, _, _, _, _, _, _, _, _, _, _, _], rfl, rfl⟩
    · cases h
  · cases h

/-- Too short for the FEC header of R118. -/
theorem length_lt_of_parseFecHeader_eq_none {r : RtpHeader} {f : Bytes} (h : parseFecHeader r f = none) :
    f.length < 16 := by
  unfold parseFecHeader at h
  split at h
  · cases h
  · next hshort =>
    refine length_lt_of_ne_append fun p q hp hg => ?_
    match p, hp with
    | [_, _, _, _, _, _, _, _, _, _, _, _, _, _, _, _], _ => exact hshort _ _ _ _ _ _ _ _ _ _ _ _ _ _ _ _ q hg

/-- Where offset and NA stand in the FEC header (R118). -/
theorem parseFecHeader_eq_some {r : RtpHeader} {f : Bytes} {u : FecUnit} (h : parseFecHeader r f = some u) :
    u.offset = f.getD 13 0#8 ∧ u.na = f.getD 14 0#8 := by
  unfold parseFecHeader at h
  split at h
  · cases h; exact ⟨rfl, rfl⟩
  · cases h

/-- A parity datagram that FEC.PARSE accepts has offset and NA other than 0 (R322). -/
theorem parseFec_eq_some {g : Bytes} {u : FecUnit} (h : parseFec g = some u) : u.offset ≠ 0#8 ∧ u.na ≠ 0#8 := by
  unfold parseFec at h
  split at h
  · cases h
  split at h
  · cases h
  split at h
  · cases h
  · next hne => cases h; exact not_or.mp hne

/-- FEC.PARSE refuses only the datagrams of R322. -/
theorem fecBad_of_parseFec_eq_none {g : Bytes} (h : parseFec g = none) : fecBad g = true := by
  unfold parseFec at h
  split at h
  · next hr => simp [fecBad, rtpBad_of_parseRtp_eq_none hr]
  next r f hr =>
  obtain ⟨p, hp, rfl⟩ := parseRtp_eq_some hr
  split at h
  · next hf =>
    have hlen := length_lt_of_parseFecHeader_eq_none hf
    simp [fecBad, hp, show 12 + f.length < 28 by omega]
  · next u hf =>
    obtain ⟨hoff, hna⟩ := parseFecHeader_eq_some hf
    have hat : ∀ n, (p ++ f).getD (12 + n) 0#8 = f.getD n 0#8 := fun n => by
      rw [List.getD_append_right _ _ _ _ (by omega), hp, Nat.add_sub_cancel_left]
    split at h
    · next hzero =>
      rw [hoff, hna, ← hat 13, ← hat 14] at hzero
      simp only [fecBad, Bool.or_eq_true, beq_iff_eq]
      exact hzero.imp .inr id
    · cases h

theorem wf_decodeRtp (port : Port) (g : Bytes) : (decodeRtp port g).wf = true := by
  unfold decodeRtp
  split
  · rfl
  · next h => exact rtpBad_of_parseRtp_eq_none h

theorem wf_of_decodeFec {port : Port} {g : Bytes} {i : Instr} (h : decodeFec port g = .instr i) : i.wf = true := by
  have hok : ∀ u, parseFec g = some u → (u.offset != 0#8 && u.na != 0#8) = true := fun u hu => by
    simpa using parseFec_eq_some hu
  unfold decodeFec at h
  split at h
  · cases h
  all_goals
    split at h <;> cases h
    · exact hok _ ‹_›
    · exact fecBad_of_parseFec_eq_none ‹_›

/-- The decoder answers well-formed instructions only. -/
theorem wf_of_decode {k : Keys} {r : Request} {i : Instr} (h : decode k r = .instr i) : i.wf = true := by
  cases r with
  | host => exact wf_of_decodeHost h
  | cfg b => cases h; exact wf_decodeCfg b
  | ts => exact wf_of_decodeTs h
  | route => exact wf_of_decodeRoute h
  | sec => exact wf_of_decodeSection h
  | splice => exact wf_of_decodeSplice h
  | insert => exact wf_of_decodeInsert h
  | duration => exact wf_of_decodeDuration h
  | spliceTime => exact wf_of_decodeSpliceTime h
  | descriptor => exact wf_of_decodeDescriptor h
  | pmtDescriptor => exact wf_of_decodePmtDescriptor h
  | mainDgram => exact wf_of_decodeMain h
  | rtp port g => cases h; exact wf_decodeRtp port g
  | fec => exact wf_of_decodeFec h
  | brInit buf p => cases h; exact decide_eq_true (Nat.le_of_lt_succ p.isLt)
  | brRead | brSkip | brPos | brAligned => cases h; rfl

end Sys2Proof
end

section
/-! PROOFS. The FEC window (R10, R36 to R38, R326): which instructions leave the FEC state, and that intake, recovery and
delivery keep its invariant. -/

namespace Sys2Proof.Machine

/-! ## What leaves the FEC state -/

/-- The parameters and the FEC state are as before. -/
structure SameFec (s t : State) : Prop where
  params : t.params = s.params
  fHi : t.fHi = s.fHi
  fNext : t.fNext = s.fNext
  fStore : t.fStore = s.fStore
  fPar : t.fPar = s.fPar

theorem SameFec.refl (s : State) : SameFec s s := ⟨rfl, rfl, rfl, rfl, rfl⟩

theorem SameFec.trans {s t u : State} (h₁ : SameFec s t) (h₂ : SameFec t u) : SameFec s u :=
  ⟨h₂.params.trans h₁.params, h₂.fHi.trans h₁.fHi, h₂.fNext.trans h₁.fNext, h₂.fStore.trans h₁.fStore,
    h₂.fPar.trans h₁.fPar⟩

theorem Pushed.sameFec {s t : State} (h : Pushed s t) : SameFec s t := by
  obtain ⟨hparams, -, -, hhi, hnext, hstore, hpar, -⟩ := h.frame
  exact ⟨hparams, hhi, hnext, hstore, hpar⟩

theorem Quiet.sameFec {s t : State} (h : Quiet s t) : SameFec s t := h.pushed.sameFec

theorem sameFec_raise (x : Exn) (s : State) : SameFec s (raise x s) := ⟨by simp, by simp, by simp, by simp, by simp⟩

theorem sameFec_demuxPush (b : Bytes) (s : State) : SameFec s (demuxPush b s) := (pushed_demuxPush b s).sameFec

theorem sameFec_rtpDeliver (q : SeqNum) (p : Bytes) (s : State) : SameFec s (rtpDeliver q p s) := by
  obtain ⟨hd, hnext, -⟩ := rtpDeliver_spec q p s
  exact ⟨hd.params, hd.fHi, hnext, hd.fStore, hd.fPar⟩

theorem sameFec_mainRtp (g : Bytes) (s : State) : SameFec s (mainRtp g s) := by
  unfold mainRtp
  split
  · exact sameFec_raise _ s
  · exact sameFec_rtpDeliver _ _ s

theorem sameFec_literalChecks (b : Bytes) (s : State) : SameFec s (literalChecks b s) := by
  obtain ⟨es, h⟩ := literalChecks_spec b s
  exact h ▸ (quiet_emitAll es s).sameFec

theorem sameFec_runParse {α : Type} (src : Option Pid) (b : Bytes) (p : Parse α) (answer : α → UnitResult) (s : State) :
    SameFec s (runParse src b p answer s) := by
  rw [runParse_spec]
  split <;> exact ⟨rfl, rfl, rfl, rfl, rfl⟩

theorem sameFec_runRoute {form : Form} {u : RouteUnit} {act : State → State} {s : State} (h : SameFec s (act s)) :
    SameFec s (runRoute form u act s) := by
  unfold runRoute
  split
  · exact h
  · exact SameFec.refl s

theorem quiet_routeSection (u : RouteUnit) (s : State) : Quiet s (routeSection u s) := by
  unfold routeSection
  split
  · exact Quiet.refl s
  · exact quiet_consume _ _ _ _ s

theorem quiet_routePcr (key : Pid) (u : RouteUnit) (s : State) : Quiet s (routePcr key u s) := by
  unfold routePcr
  split
  · exact Quiet.refl s
  · exact quiet_setPcr _ _ s

theorem quiet_payloadPacket (h : TsHeader) (body : Bytes) (s : State) : Quiet s (payloadPacket h body s) :=
  quiet_route _ s

theorem quiet_adaptPacket (h : TsHeader) (body : Bytes) (s : State) : Quiet s (adaptPacket h body s) := by
  unfold adaptPacket
  split
  · exact quiet_raise rfl s
  · exact quiet_route _ s

theorem quiet_adaptPayloadPacket (h : TsHeader) (body : Bytes) (s : State) : Quiet s (adaptPayloadPacket h body s) := by
  unfold adaptPayloadPacket
  split
  · exact quiet_raise rfl s
  · exact quiet_route _ s

theorem sameFec_endOfFile (s : State) : SameFec s (endOfFile s) := by
  unfold endOfFile
  simp only
  split
  · exact ⟨rfl, rfl, rfl, rfl, rfl⟩
  · exact (sameFec_raise _ s).trans ⟨rfl, rfl, rfl, rfl, rfl⟩

/-! ## What passes a gate -/

/-- What a unit-level row can end in (R156). -/
theorem inUnit_cases {act : State → State} {s t : State} (h : inUnit act s = .next t) : t = s ∨ t = act s := by
  simp only [inUnit, Host.Outcome.next.injEq] at h
  split at h
  · exact .inl h.symm
  · exact .inr h.symm

/-- What a host command can end in (R365, R369, R370). -/
theorem command_cases {code : Byte} {legal : Bool} {act : State → State} {s t : State}
    (h : command code legal act s = .next t) : t = s ∨ t = raise (.x20 code) s ∨ (legal = true ∧ t = act s) := by
  simp only [command, Host.Outcome.next.injEq] at h
  split at h
  · exact .inl h.symm
  · split at h
    · next hl => exact .inr (.inr ⟨hl, h.symm⟩)
    · exact .inr (.inl h.symm)

theorem sameFec_of_inUnit {act : State → State} {s t : State} (h : inUnit act s = .next t) (hact : SameFec s (act s)) :
    SameFec s t := by
  rcases inUnit_cases h with rfl | rfl
  · exact SameFec.refl _
  · exact hact

theorem sameFec_of_command {code : Byte} {legal : Bool} {act : State → State} {s t : State}
    (h : command code legal act s = .next t) (hact : SameFec s (act s)) : SameFec s t := by
  rcases command_cases h with rfl | rfl | ⟨-, rfl⟩
  · exact SameFec.refl _
  · exact sameFec_raise _ s
  · exact hact

theorem sameFec_of_configure {cfg : Byte} {m : Mode} {s t : State} (h : configure cfg m s = .next t) : SameFec s t :=
  sameFec_of_command h ⟨rfl, rfl, rfl, rfl, rfl⟩

/-! ## The invariant's frame -/

/-- The invariant speaks of the parameters and the FEC state only. -/
theorem FecInv.of_sameFec {s t : State} (hs : FecInv s) (h : SameFec s t) : FecInv t := by
  obtain ⟨hparams, hhi, hnext, hstore, hpar⟩ := h
  unfold FecInv
  rw [hparams, hhi, hnext, hstore, hpar]
  exact hs

/-! ## Intake (R324, R326) -/

theorem dist_self (m : SeqNum) : dist m m = 0 := by simp [dist]

/-- What the eviction leaves is inside the window. -/
theorem dist_lt_of_evict {p : Config.Params} {hi k : SeqNum} {t : List (Nat × Bytes)}
    (h : (tableGet k.toNat (evict p hi t)).isSome = true) : dist k hi < p.fecRetain := by
  rw [evict, tableGet_filter_key (fun n => retained p hi (BitVec.ofNat 16 n)), BitVec.ofNat_toNat, BitVec.setWidth_eq] at h
  split at h
  · next hk => exact of_decide_eq_true hk
  · cases h

/-- A number newer than `F_HI` is not stored: it stands more than half the space behind `F_HI`, the window ends before. -/
theorem not_stored_of_newer {s : State} (hs : FecInv s) {hi m : SeqNum} (hhi : s.fHi = some hi) (hn : newer hi m = true) :
    (tableGet m.toNat s.fStore).isSome = false := by
  obtain ⟨⟨-, -, hretain, -⟩, -, -, hwin, -⟩ := hs
  by_contra h
  have hin := hwin hi hhi m (by rwa [Bool.not_eq_false] at h)
  obtain ⟨hpos, hhalf⟩ := Bool.and_eq_true_iff.mp hn
  have hpos := of_decide_eq_true hpos
  have hhalf := of_decide_eq_true hhalf
  simp only [dist] at hpos hhalf hin
  bv_omega

/-- The last lines of FEC.INSERT restore the window behind `hi`, if nothing but the window was out of order, and that
only where the packet is no duplicate. -/
theorem fecInv_fecStore {s : State} {hi m : SeqNum} (p : Bytes) (hvalid : s.params.Valid) (hhi : s.fHi = some hi)
    (hnext : s.fNext ≠ none) (hcap : s.fPar.length ≤ s.params.fecParCap) (hok : s.fPar.all ParityRec.ok = true)
    (hdup : (tableGet m.toNat s.fStore).isSome = true → FecInv s) : FecInv (fecStore hi m p s).1 := by
  unfold fecStore
  split
  · next h => exact hdup h
  · refine ⟨hvalid, by simp [hhi, hnext], by simp [hhi], ?_, hcap, hok⟩
    intro hi' hhi' k hk
    obtain rfl : hi = hi' := Option.some.inj (hhi.symm.trans hhi')
    exact dist_lt_of_evict hk

/-- FEC.INSERT keeps the window (R324, R326). -/
theorem fecInv_fecInsert {s : State} (hs : FecInv s) (m : SeqNum) (p : Bytes) : FecInv (fecInsert m p s).1 := by
  obtain ⟨hvalid, hboth, hempty, hwin, hcap, hok⟩ := id hs
  unfold fecInsert
  split
  · next hnone =>
    refine fecInv_fecStore p hvalid rfl (by simp) hcap hok fun hdup => ?_
    simp [hempty hnone, tableGet] at hdup
  · next hi hhi =>
    have hnext : s.fNext ≠ none := fun h => by simp [hboth.mpr h] at hhi
    split
    · next hn =>
      refine fecInv_fecStore p hvalid rfl hnext hcap hok fun hdup => ?_
      simp [not_stored_of_newer hs hhi hn] at hdup
    · split
      · exact fecInv_fecStore p hvalid hhi hnext hcap hok fun _ => hs
      · exact hs

/-! ## Recovery and delivery -/

/-- The invariant stays when records leave `F_PAR` and events are added. -/
theorem fecInv_of_sublist {s : State} (hs : FecInv s) {par : List ParityRec} (h : par.Sublist s.fPar) (es : List Event) :
    FecInv (emitAll es { s with fPar := par }) := by
  obtain ⟨hvalid, hboth, hempty, hwin, hcap, hok⟩ := hs
  refine ⟨hvalid, hboth, hempty, hwin, h.length_le.trans hcap, List.all_eq_true.mpr fun r hr => ?_⟩
  exact List.all_eq_true.mp hok r (h.subset hr)

/-- RECOVER keeps the window (R330, R336). -/
theorem fecInv_recover (n : Nat) {s : State} (hs : FecInv s) : FecInv (recover n s) := by
  induction n generalizing s with
  | zero => exact hs
  | succ n ih =>
    unfold recover
    split
    · exact hs
    · next hi _ =>
      have hscan := fecInv_of_sublist hs (scan_spec s.params hi s.fStore s.fPar).1
      simp only
      split
      · exact hscan _
      · exact ih (fecInv_fecInsert (hscan _) _ _)

/-- DELIVER moves `F_NEXT` and never unsets it. -/
theorem deliver_fNext_eq_none (n : Nat) (s : State) : (deliver n s).fNext = none ↔ s.fNext = none := by
  induction n generalizing s with
  | zero => exact Iff.rfl
  | succ n ih =>
    unfold deliver
    split
    · next q hi hnext _ =>
      split
      · next pay _ =>
        have hd := (rtpDeliver_spec q pay { s with fNext := some (q + 1#16) }).2.1
        simp only
        split
        · simp [hd, hnext]
        · simp [ih, hd, hnext]
      · split
        · simp [ih, hnext]
        · exact Iff.rfl
    · exact Iff.rfl

/-- DELIVER keeps the window: it writes `F_NEXT` alone of the FEC state (R337). -/
theorem fecInv_deliver (n : Nat) {s : State} (hs : FecInv s) : FecInv (deliver n s) := by
  have hd := deliver_spec n s
  obtain ⟨hvalid, hboth, hempty, hwin, hcap, hok⟩ := hs
  unfold FecInv
  rw [hd.params, hd.fHi, hd.fStore, hd.fPar, deliver_fNext_eq_none]
  exact ⟨hvalid, hboth, hempty, hwin, hcap, hok⟩

theorem fecInv_fecAdvance {s : State} (hs : FecInv s) : FecInv (fecAdvance s) := by
  unfold fecAdvance
  split
  · exact hs
  · exact fecInv_deliver _ (fecInv_recover _ hs)

theorem fecInv_fecMedia {s : State} (hs : FecInv s) (m : SeqNum) (p : Bytes) : FecInv (fecMedia m p s) := by
  have hin := fecInv_fecInsert hs m p
  unfold fecMedia
  split
  · next h => rw [h] at hin; exact fecInv_fecAdvance hin
  · next h => rw [h] at hin; exact hin

/-- A record joins `F_PAR`, the oldest leaving a full one (R327). -/
theorem fecInv_fecParity {s : State} (hs : FecInv s) {r : ParityRec} (hr : r.ok = true) : FecInv (fecParity r s) := by
  obtain ⟨hvalid, hboth, hempty, hwin, hcap, hok⟩ := hs
  have hall : (s.fPar ++ [r]).all ParityRec.ok = true := by simp [hok, hr]
  refine fecInv_fecAdvance ⟨hvalid, hboth, hempty, hwin, ?_, ?_⟩
  · simp only
    split
    · simpa using hcap
    · omega
  · simp only
    split
    · exact List.all_eq_true.mpr fun x hx => List.all_eq_true.mp hall x (List.mem_of_mem_tail hx)
    · exact hall

/-! ## The rows of the FEC unit -/

theorem parityRec_ok {port : Port} {u : FecUnit} (hport : port ≠ .main) (hoff : u.offset ≠ 0#8) (hna : u.na ≠ 0#8) :
    (parityRec port u).ok = true := by
  simp [parityRec, ParityRec.ok, hport, hoff, hna]

theorem fecInv_mainRtpFec {s : State} (hs : FecInv s) (g : Bytes) : FecInv (mainRtpFec g s) := by
  unfold mainRtpFec
  split
  · exact hs.of_sameFec (sameFec_raise _ s)
  · exact fecInv_fecMedia hs _ _

theorem fecInv_parityDgram {s : State} (hs : FecInv s) {port : Port} (hport : port ≠ .main) (g : Bytes) :
    FecInv (parityDgram port g s) := by
  unfold parityDgram
  split
  · exact hs.of_sameFec (sameFec_raise _ s)
  · next hu =>
    obtain ⟨hoff, hna⟩ := parseFec_eq_some hu
    exact fecInv_fecParity hs (parityRec_ok hport hoff hna)

theorem fecInv_mainDgram {s : State} (hs : FecInv s) (g : Bytes) : FecInv (mainDgram g s) := by
  unfold mainDgram
  split
  · exact hs.of_sameFec (sameFec_demuxPush g s)
  · split
    · exact hs.of_sameFec (sameFec_mainRtp g s)
    · exact fecInv_mainRtpFec hs g

theorem fecInv_sizeChecked {s : State} (hs : FecInv s) (port : Port) (g : Bytes) {act : State → State}
    (hact : FecInv (act s)) : FecInv (sizeChecked port g act s) := by
  unfold sizeChecked
  split
  · exact hs.of_sameFec (sameFec_raise _ s)
  · exact hact

theorem fecInv_of_command {code : Byte} {legal : Bool} {act : State → State} {s t : State} (hs : FecInv s)
    (h : command code legal act s = .next t) (hact : FecInv (act s)) : FecInv t := by
  rcases command_cases h with rfl | rfl | ⟨-, rfl⟩
  · exact hs
  · exact hs.of_sameFec (sameFec_raise _ s)
  · exact hact

theorem fecInv_of_inUnit {act : State → State} {s t : State} (hs : FecInv s)
    (h : inUnit act s = .next t) (hact : FecInv (act s)) : FecInv t := by
  rcases inUnit_cases h with rfl | rfl
  · exact hs
  · exact hact

theorem fecInv_of_execDgramMain {g : Bytes} {s t : State} (hs : FecInv s) (h : execDgramMain g s = .next t) : FecInv t :=
  fecInv_of_command hs h (fecInv_sizeChecked hs _ g (fecInv_mainDgram hs g))

/-! ## Every instruction and every request -/

/-- The instructions that write the FEC state: RESET, the datagram commands, and the rows of the FEC unit. -/
def writesFec : Instr → Bool
  | .reset | .dgramMain _ | .dgramCol _ | .dgramRow _ | .mainRtpFec _ | .fecCol _ | .fecRow _ => true
  | _ => false

/-- Every other instruction leaves the FEC state. -/
theorem sameFec_of_exec {i : Instr} (hi : writesFec i = false) {s t : State} (h : exec i s = .next t) : SameFec s t := by
  unfold exec at h
  cases i with
  | reset | dgramMain | dgramCol | dgramRow | mainRtpFec | fecCol | fecRow => cases hi
  | config cfg =>
    simp only [execConfig] at h
    split at h
    · exact sameFec_of_configure h
    · exact sameFec_of_command h (SameFec.refl s)
  | configFile | configNetRaw | configSection | configNetRtp | configNetRtpFec => exact sameFec_of_configure h
  | configIllegal | hostIllegal => exact sameFec_of_command h (SameFec.refl s)
  | push b => exact sameFec_of_command h (sameFec_demuxPush b s)
  | eof => exact sameFec_of_command h (sameFec_endOfFile s)
  | rxerr => exact sameFec_of_command h (sameFec_raise _ s)
  | literalSection b =>
    have hdone : SameFec s { s with mode := .done } := ⟨rfl, rfl, rfl, rfl, rfl⟩
    exact sameFec_of_command h (hdone.trans (sameFec_literalChecks b _))
  | tsPayload hd b => exact sameFec_of_inUnit h (quiet_payloadPacket hd b s).sameFec
  | tsAdapt hd b => exact sameFec_of_inUnit h (quiet_adaptPacket hd b s).sameFec
  | tsAdaptPayload hd b => exact sameFec_of_inUnit h (quiet_adaptPayloadPacket hd b s).sameFec
  | tsAfcReserved | fecMalformed => exact sameFec_of_inUnit h (sameFec_raise _ s)
  | tsNosync b =>
    refine sameFec_of_inUnit h (SameFec.trans (pushed_pktbuf (s.pktbuf ++ b) s).sameFec ?_)
    simp only
    split
    · exact SameFec.refl _
    · split
      · exact SameFec.refl _
      · exact (resync_spec _).1.sameFec
  | routeEmpty u =>
    exact sameFec_of_inUnit h (sameFec_runRoute ((quiet_setSlot _ _ s).trans (quiet_routeBuilt u _)).sameFec)
  | routeNull => exact sameFec_of_inUnit h (sameFec_runRoute (SameFec.refl s))
  | routePat u | routePmt _ u | routeScte35 _ _ u =>
    exact sameFec_of_inUnit h (sameFec_runRoute (quiet_routeSection u s).sameFec)
  | routePcrwatch k u => exact sameFec_of_inUnit h (sameFec_runRoute (quiet_routePcr k u s).sameFec)
  | secPat | secPmt | secSplice | secOther => exact sameFec_of_inUnit h (quiet_runSection _ _ s).sameFec
  | secStuffing pid rest =>
    refine sameFec_of_inUnit h ?_
    cases pid with
    | none => exact sameFec_literalChecks _ s
    | some => exact SameFec.refl s
  | spliceEncrypted | spliceNull | spliceSchedule | spliceInsert | timeSignal | bandwidthReservation | privateCommand
  | spliceReserved => exact sameFec_of_inUnit h (quiet_emitAll _ s).sameFec
  | insertCancel | insertProgramTimed | insertProgramImmediate | insertComponentTimed | insertComponentImmediate
  | insertDuration | spliceTimeSpecified | spliceTimeUnspecified => exact sameFec_of_inUnit h (sameFec_runParse _ _ _ _ s)
  | spliceDescriptor | pmtRegistrationCuei =>
    refine sameFec_of_inUnit h ?_
    split
    · exact sameFec_raise _ s
    · exact ⟨rfl, rfl, rfl, rfl, rfl⟩
  | mainRaw g => exact sameFec_of_inUnit h (sameFec_demuxPush g s)
  | mainRtp g => exact sameFec_of_inUnit h (sameFec_mainRtp g s)
  | rtpV2 | brInit | brPos | brAligned => exact sameFec_of_inUnit h ⟨rfl, rfl, rfl, rfl, rfl⟩
  | rtpMalformed port => exact sameFec_of_inUnit h (by cases port <;> exact sameFec_raise _ s)
  | brRead | brSkip =>
    refine sameFec_of_inUnit h ?_
    split <;> exact ⟨rfl, rfl, rfl, rfl, rfl⟩

/-- RESET empties the FEC state and keeps the parameters (R361). -/
theorem fecInv_of_execReset {s t : State} (hs : FecInv s) (h : execReset s = .next t) : FecInv t := by
  obtain ⟨hvalid, -⟩ := hs
  cases h
  exact ⟨hvalid, Iff.rfl, fun _ => rfl, (fun _ h => by cases h), Nat.zero_le _, rfl⟩

/-- Every well-formed instruction keeps the FEC window. -/
theorem fecInv_of_exec {i : Instr} (hwf : i.wf = true) {s t : State} (hs : FecInv s) (h : exec i s = .next t) :
    FecInv t := by
  by_cases hi : writesFec i = false
  · exact hs.of_sameFec (sameFec_of_exec hi h)
  have hparity : ∀ (port : Port) (u : FecUnit), port ≠ .main → (u.offset != 0#8 && u.na != 0#8) = true →
      FecInv (fecParity (parityRec port u) s) := fun port u hport hu => by
    simp only [Bool.and_eq_true, bne_iff_ne] at hu
    exact fecInv_fecParity hs (parityRec_ok hport hu.1 hu.2)
  cases i with
  | reset => exact fecInv_of_execReset hs h
  | dgramMain g => exact fecInv_of_execDgramMain hs h
  | dgramCol g | dgramRow g =>
    exact fecInv_of_command hs h (fecInv_sizeChecked hs _ g (fecInv_parityDgram hs (by decide) g))
  | mainRtpFec g => exact fecInv_of_inUnit hs h (fecInv_mainRtpFec hs g)
  | fecCol u | fecRow u => exact fecInv_of_inUnit hs h (hparity _ u (by decide) hwf)
  | _ => exact absurd rfl hi

/-- A request of no row keeps the FEC window: a main datagram as DGRAM.MAIN, any other leaves the FEC state. -/
theorem fecInv_of_offTable {r : Request} {s t : State} (hs : FecInv s) (h : offTable r s = .next t) : FecInv t := by
  by_cases hr : onMainPort r = false
  · obtain ⟨t', ht', hp⟩ := offTable_spec hr s
    obtain rfl : t' = t := Host.Outcome.next.inj (ht'.symm.trans h)
    exact hs.of_sameFec (hp.sameFec.trans ⟨rfl, rfl, rfl, rfl, rfl⟩)
  · cases r with
    | mainDgram g => exact fecInv_of_execDgramMain hs h
    | fec port g =>
      cases port with
      | main => exact fecInv_of_execDgramMain hs h
      | col | row => exact absurd rfl hr
    | _ => exact absurd rfl hr

/-- Settles O17: the decoder answers well-formed instructions only, each of which keeps the window. -/
theorem fecWindowIsKept : Obligations.FecWindowIsKept := by
  intro s t hs h
  unfold step at h
  split at h
  · cases h; exact hs
  next r rest _ =>
  have hs' : FecInv { s with inbox := rest } := hs.of_sameFec ⟨rfl, rfl, rfl, rfl, rfl⟩
  split at h
  · next hd => exact fecInv_of_exec (wf_of_decode hd) hs' h
  · exact fecInv_of_offTable hs' h

end Sys2Proof.Machine
end

section
/-! PROOFS. The writes to the two tables: what an instruction does to the filter table and the registry is a sequence of
four kinds of write, and each invariant of the tables holds because each write keeps it. -/

namespace Sys2Proof.Machine

/-! ## The writes -/

/-- The filter that `p` may be given (R167, R220, R229): Pat on PID 0 alone, Scte35 with its own PID, and no filter that
names an Absent registry entry. -/
def FilterFits (s : State) (p : Pid) (f : Form) : Prop :=
  (f = .pat → p = 0#13) ∧ (∀ e k, f = .scte35 e k → e = p ∧ pcrAt s k ≠ .absent) ∧
    (∀ k, f = .pcrWatch k → pcrAt s k ≠ .absent)

/-- How a partial section moves on (R192, R195, R198): it stays, it is dropped, or bytes join it or open a new one. -/
inductive AccMove (old : Option Bytes) : Option Bytes → Prop
  | kept : AccMove old old
  | dropped : AccMove old none
  | grown {a a' data : Bytes} : old = some a ∨ a = [] → data ≠ [] → gather a data = .more a' → AccMove old (some a')

/-- One write to the tables, other state apart. -/
inductive TableWrite (s : State) : State → Prop
  | other {t : State} : t.ft = s.ft → t.pcrreg = s.pcrreg → TableWrite s t
  | entry (k : Pid) {e : PcrEntry} : e ≠ .absent → TableWrite s (setPcr k e s)
  | fresh {p : Pid} {f : Form} : FilterFits s p f → TableWrite s (setSlot p (freshSlot f) s)
  | reasm {p : Pid} {r r' : Reasm} : reasmAt s p = some r → AccMove r.acc r'.acc → TableWrite s (setReasm p r' s)

/-- Writes one after another. -/
abbrev TableWrites : State → State → Prop := Relation.ReflTransGen TableWrite

/-- What each write keeps, a sequence of writes keeps. -/
theorem TableWrites.induct {P : State → Prop} (hwrite : ∀ s t, TableWrite s t → P s → P t) {s t : State}
    (h : TableWrites s t) (hs : P s) : P t := by
  induction h with
  | refl => exact hs
  | tail _ hw ih => exact hwrite _ _ hw ih

/-- Neither table is written. -/
theorem writes_other {s t : State} (hft : t.ft = s.ft) (hpcr : t.pcrreg = s.pcrreg) : TableWrites s t :=
  .single (.other hft hpcr)

/-- Other state is written first. -/
theorem TableWrites.after_other {s s' t : State} (h : TableWrites s' t) (hft : s'.ft = s.ft)
    (hpcr : s'.pcrreg = s.pcrreg) : TableWrites s t :=
  (writes_other hft hpcr).trans h

theorem writes_raise (x : Exn) (s : State) : TableWrites s (raise x s) := writes_other (by simp) (by simp)

theorem writes_emitAll (es : List Event) (s : State) : TableWrites s (emitAll es s) := writes_other rfl rfl

/-! ## Tables and sections -/

theorem writes_classify {p : Pid} {f : Form} {s : State} (h : FilterFits s p f) : TableWrites s (classify p f s) := by
  unfold classify
  split
  · exact .refl
  · exact .single (.fresh h)

@[simp] theorem pcrAt_classify (p : Pid) (f : Form) (s : State) (k : Pid) : pcrAt (classify p f s) k = pcrAt s k := by
  unfold classify
  split <;> simp

theorem writes_applyPat (ps : List (BitVec 16 × Pid)) (s : State) : TableWrites s (applyPat ps s) := by
  unfold applyPat
  induction ps generalizing s with
  | nil => exact .refl
  | cons e rest ih => exact (writes_classify ⟨by simp, by simp, by simp⟩).trans (ih _)

/-- A stream's filter fits its PID once the PMT's registry entry exists (R228, R229). -/
theorem streamForm_fits {s : State} {pid : Pid} (h : pcrAt s pid ≠ .absent) (e : Pid × Bool) :
    FilterFits s e.1 (streamForm pid e) := by
  unfold streamForm
  split
  · exact ⟨by simp, fun _ _ he => by cases he; exact ⟨rfl, h⟩, by simp⟩
  · exact ⟨by simp, by simp, fun _ he => by cases he; exact h⟩

theorem writes_streams {pid : Pid} (es : List (Pid × Bool)) {s : State} (h : pcrAt s pid ≠ .absent) :
    TableWrites s (es.foldl (fun s e => classify e.1 (streamForm pid e) s) s) := by
  induction es generalizing s with
  | nil => exact .refl
  | cons e rest ih => exact (writes_classify (streamForm_fits h e)).trans (ih (by simpa using h))

theorem writes_applyPmt (pid : Pid) (es : List (Pid × Bool)) (s : State) : TableWrites s (applyPmt pid es s) := by
  unfold applyPmt
  split
  · exact .head (.entry pid (by simp)) (writes_streams es (by simp))
  · next h => exact writes_streams es h

theorem writes_patSection (p : Pid) (sec : Bytes) (s : State) : TableWrites s (patSection p sec s) := by
  unfold patSection
  split
  · exact writes_raise _ s
  · exact writes_applyPat _ s

theorem writes_pmtSection (p : Pid) (pn : BitVec 16) (sec : Bytes) (s : State) :
    TableWrites s (pmtSection p pn sec s) := by
  unfold pmtSection
  split
  · exact writes_raise _ s
  · exact writes_raise _ s
  · exact writes_applyPmt p _ s

theorem writes_complete (p : Pid) (sec : Bytes) (s : State) : TableWrites s (complete p sec s) := by
  unfold complete
  split
  · exact .refl
  split
  · exact writes_raise _ s
  split
  · exact writes_raise _ s
  unfold processSection
  split
  · exact writes_patSection p sec s
  · exact writes_pmtSection p _ sec s
  · exact writes_emitAll _ s
  · exact .refl
  · exact .refl
  · exact .refl

/-! ## The reassembler -/

theorem writes_setAcc {p : Pid} {s : State} {acc : Option Bytes} (h : AccMove (accAt s p) acc) :
    TableWrites s (setAcc p acc s) := by
  cases hr : reasmAt s p with
  | none => simpa [setAcc, hr] using Relation.ReflTransGen.refl
  | some r =>
    rw [setAcc_spec hr]
    exact .single (.reasm hr (by simpa [accAt, hr] using h))

/-- What FEED starts a pass from is the open section or nothing. -/
theorem openSection_eq_some {acc : Option Bytes} {fresh : Bool} {b : Byte} {a : Bytes}
    (h : openSection acc fresh b = some a) : acc = some a ∨ a = [] := by
  unfold openSection at h
  split at h
  · exact .inl h
  · split at h <;> simp_all

theorem writes_feed (n : Nat) (p : Pid) (f : Form) (data : Bytes) (fresh : Bool) (s : State) :
    TableWrites s (feed n p f data fresh s).1 := by
  induction n generalizing data s with
  | zero => exact .refl
  | succ n ih =>
    unfold feed
    split
    · exact .refl
    split
    · exact .refl
    next b rest _ a ha =>
    split
    · next hg => exact writes_setAcc (.grown (openSection_eq_some ha) (by simp) hg)
    · exact (writes_raise _ s).trans (writes_setAcc .dropped)
    · next sec rest _ =>
      have h := (writes_setAcc (s := s) (p := p) .dropped).trans (writes_complete p sec (setAcc p none s))
      simp only
      split
      · exact h
      · exact h.trans (ih _ _)

theorem writes_continuity {p : Pid} {cc : Cc} {r : Reasm} {s : State} (h : reasmAt s p = some r) :
    TableWrites s (continuity p cc r s) := by
  unfold continuity
  split
  · exact .head (.reasm h .dropped) (writes_raise _ _)
  · exact .single (.reasm h .kept)

theorem writes_consumeStart (p : Pid) (f : Form) (ptr : Byte) (d : Bytes) (s : State) :
    TableWrites s (consumeStart p f ptr d s) := by
  unfold consumeStart
  split
  · exact (writes_raise _ s).trans (writes_setAcc .dropped)
  simp only
  split
  · exact writes_feed _ p f _ _ s
  have htail := writes_feed (d.take ptr.toNat).length p f (d.take ptr.toNat) false s
  split
  · exact htail
  · refine (htail.trans ?_).trans (writes_feed _ p f _ _ _)
    split
    · exact .refl
    · exact (writes_raise _ _).trans (writes_setAcc .dropped)

theorem writes_consume (p : Pid) (pusi : BitVec 1) (cc : Cc) (d : Bytes) (s : State) :
    TableWrites s (consume p pusi cc d s) := by
  unfold consume
  split
  · exact .refl
  next r hr =>
  have hcc := writes_continuity (cc := cc) hr
  simp only
  split
  · split
    · exact hcc
    · exact hcc.trans (writes_consumeStart p _ _ _ _)
  · split
    · exact hcc
    · exact hcc.trans (writes_feed _ p _ _ _ _)

theorem writes_feedLoose (p : Pid) (b : Bytes) (s : State) : TableWrites s (feedLoose p b s) := by
  unfold feedLoose
  split
  · exact .refl
  · exact writes_feed _ p _ b true s

theorem writes_literalChecks (b : Bytes) (s : State) : TableWrites s (literalChecks b s) := by
  obtain ⟨es, h⟩ := literalChecks_spec b s
  exact h ▸ writes_emitAll es s

theorem writes_runSection (p : Option Pid) (sec : Bytes) (s : State) : TableWrites s (runSection p sec s) := by
  unfold runSection
  split
  · exact writes_literalChecks sec s
  split
  · exact .refl
  split
  · exact writes_raise _ s
  · exact writes_complete _ sec s

/-! ## Packets -/

theorem writes_routeSection (u : RouteUnit) (s : State) : TableWrites s (routeSection u s) := by
  unfold routeSection
  split
  · exact .refl
  · exact writes_consume _ _ _ _ s

theorem writes_routePcr (key : Pid) (u : RouteUnit) (s : State) : TableWrites s (routePcr key u s) := by
  unfold routePcr
  split
  · exact .refl
  · exact .single (.entry key (by simp))

theorem writes_routeBuilt (u : RouteUnit) (s : State) : TableWrites s (routeBuilt u s) := by
  unfold routeBuilt
  split
  · exact .refl
  · exact .refl
  · exact writes_routePcr _ u s
  · exact writes_routeSection u s
  · exact writes_routeSection u s
  · exact writes_routeSection u s

/-- Lazy construction makes Pat on PID 0 and Null elsewhere (R163). -/
theorem writes_construct (p : Pid) (s : State) : TableWrites s (construct p s) := by
  refine .single (.fresh ?_)
  split
  · next h => exact ⟨fun _ => h, by simp, by simp⟩
  · exact ⟨by simp, by simp, by simp⟩

theorem writes_route (u : RouteUnit) (s : State) : TableWrites s (route u s) := by
  unfold route
  split
  · exact (writes_construct u.pid s).trans (writes_routeBuilt u _)
  · exact writes_routeBuilt u s

theorem writes_adaptPacket (h : TsHeader) (body : Bytes) (s : State) : TableWrites s (adaptPacket h body s) := by
  unfold adaptPacket
  split
  · exact writes_raise _ s
  · exact writes_route _ s

theorem writes_adaptPayloadPacket (h : TsHeader) (body : Bytes) (s : State) :
    TableWrites s (adaptPayloadPacket h body s) := by
  unfold adaptPayloadPacket
  split
  · exact writes_raise _ s
  · exact writes_route _ s

theorem writes_packet (p : Bytes) (s : State) : TableWrites s (packet p s) := by
  unfold packet
  simp only
  split
  · exact writes_raise _ s
  split
  · exact writes_route _ s
  split
  · exact writes_adaptPacket _ _ s
  · exact writes_adaptPayloadPacket _ _ s

/-! ## Framing and delivery -/

theorem writes_resync (s : State) : TableWrites s (resync s).1 := by
  unfold resync
  split
  · exact .refl
  · exact writes_other (by simp) (by simp)
  · exact writes_other rfl rfl

theorem writes_frameLoop (n : Nat) (s : State) : TableWrites s (frameLoop n s) := by
  induction n generalizing s with
  | zero => exact .refl
  | succ n ih =>
    unfold frameLoop
    split
    · exact .refl
    split
    · exact .refl
    split
    · split
      · exact .refl
      · exact TableWrites.after_other ((writes_packet (s.pktbuf.take Config.tsPkt) _).trans (ih _)) rfl rfl
    · have hr := writes_resync s
      split
      · next h => rw [h] at hr; exact hr.trans (ih _)
      · next h => rw [h] at hr; exact hr

theorem writes_demuxPush (b : Bytes) (s : State) : TableWrites s (demuxPush b s) :=
  (writes_frameLoop (s.pktbuf ++ b).length { s with pktbuf := s.pktbuf ++ b }).after_other rfl rfl

theorem writes_rtpDeliver (q : SeqNum) (p : Bytes) (s : State) : TableWrites s (rtpDeliver q p s) := by
  unfold rtpDeliver
  split
  · exact (writes_demuxPush p { s with rtpLast := some q }).after_other rfl rfl
  · split
    · exact (writes_demuxPush p { s with rtpLast := some q }).after_other rfl rfl
    · exact (writes_demuxPush p _).after_other (by simp) (by simp)

theorem writes_deliver (n : Nat) (s : State) : TableWrites s (deliver n s) := by
  induction n generalizing s with
  | zero => exact .refl
  | succ n ih =>
    unfold deliver
    split
    · next q hi _ _ =>
      have hnext : TableWrites s { s with fNext := some (q + 1#16) } := writes_other rfl rfl
      split
      · next pay _ =>
        have hd := hnext.trans (writes_rtpDeliver q pay { s with fNext := some (q + 1#16) })
        simp only
        split
        · exact hd
        · exact hd.trans (ih _)
      · split
        · exact hnext.trans (ih _)
        · exact .refl
    · exact .refl

end Sys2Proof.Machine
end

section
/-! PROOFS. The invariants of the two tables, each kept by every table write. -/

namespace Sys2Proof.Machine

/-! ## Writes that leave a table -/

theorem pcrAt_congr {s t : State} (h : t.pcrreg = s.pcrreg) (k : Pid) : pcrAt t k = pcrAt s k := by
  unfold pcrAt
  rw [h]

theorem slotAt_congr {s t : State} (h : t.ft = s.ft) (p : Pid) : slotAt t p = slotAt s p := by
  unfold slotAt
  rw [h]

theorem formAt_congr {s t : State} (h : t.ft = s.ft) (p : Pid) : formAt t p = formAt s p := by
  rw [formAt, slotAt_congr h, formAt]

theorem reasmAt_congr {s t : State} (h : t.ft = s.ft) (p : Pid) : reasmAt t p = reasmAt s p := by
  rw [reasmAt, slotAt_congr h, reasmAt]

/-! ## The registry (R34) -/

/-- No write makes an entry Absent again. -/
theorem pcrAt_ne_absent_of_write {s t : State} (h : TableWrite s t) {k : Pid} (hk : pcrAt s k ≠ .absent) :
    pcrAt t k ≠ .absent := by
  cases h with
  | other _ hpcr => rwa [pcrAt_congr hpcr]
  | entry j he =>
    by_cases hj : k = j
    · subst hj; simpa using he
    · rwa [pcrAt_setPcr_other hj]
  | fresh _ => simpa using hk
  | reasm _ _ => simpa using hk

/-! ## Canonical tables (R28, R34) -/

/-- `FT` and `PCRREG` are canonical, `F_STORE` apart. -/
def TablesWf (s : State) : Prop := Memory.wf { s with fStore := [] } = true

theorem memory_wf_iff_tables (s : State) :
    Memory.wf s = true ↔ TablesWf s ∧ keysRising Config.seqSpace 0 s.fStore = true := by
  simp only [TablesWf, memory_wf_iff, keysRising, and_true, and_assoc]

theorem tablesWf_of_write {s t : State} (h : TableWrite s t) (hs : TablesWf s) : TablesWf t := by
  cases h with
  | other hft hpcr =>
    unfold TablesWf at hs ⊢
    rw [memory_wf_iff] at hs ⊢
    simpa only [hft, hpcr] using hs
  | entry k _ => exact setPcr_wf k _ hs
  | fresh _ => exact setSlot_wf _ _ hs
  | reasm _ _ => exact setReasm_wf _ _ hs

/-! ## Partial sections (R205) -/

/-- The three header bytes of a section stay its first three. -/
theorem sectionLength_append {b : Bytes} (h : 3 ≤ b.length) (c : Bytes) : sectionLength (b ++ c) = sectionLength b := by
  have hbyte : ∀ i < 3, byteAt (b ++ c) i = byteAt b i := fun i hi => by
    unfold byteAt
    rw [List.getD_append _ _ _ _ (by omega)]
  rw [sectionLength, hbyte 1 (by decide), hbyte 2 (by decide), sectionLength]

/-- What GATHER leaves open is short of its declared end, if what it was given was (R195 to R198, R205). -/
theorem reasm_ok_of_gather {a a' data : Bytes} {cc cc' : Option Cc} (hd : data ≠ [])
    (ha : a = [] ∨ Reasm.ok { lastCc := cc, acc := some a } = true) (h : gather a data = .more a') :
    Reasm.ok { lastCc := cc', acc := some a' } = true := by
  have hpos : 0 < data.length := List.length_pos_iff.mpr hd
  simp only [Reasm.ok, Bool.and_eq_true, Bool.or_eq_true, decide_eq_true_eq] at ha ⊢
  unfold gather at h
  simp only at h
  set head := a ++ data.take (3 - a.length) with hhead
  have hlen : head.length = a.length + min (3 - a.length) data.length := by simp [hhead]
  split at h
  · -- the header is still incomplete
    rw [← Gather.more.inj h]
    omega
  split at h
  · cases h
  next hthree hlong =>
  split at h
  · cases h
  next hend =>
  cases h
  set more := (data.drop (3 - a.length)).take (3 + (sectionLength head).toNat - head.length)
  have hmore : more.length ≤ 3 + (sectionLength head).toNat - head.length := List.length_take_le _ _
  have hlegal : (sectionLength head).toNat ≤ Config.maxSectionLength ∧ head.length ≤ 3 + (sectionLength head).toNat := by
    by_cases ha3 : a.length < 3
    · exact ⟨Nat.le_of_not_lt fun hl => hlong ⟨ha3, hl⟩, by omega⟩
    · have hsame : head = a := by simp [hhead, Nat.sub_eq_zero_of_le (Nat.le_of_not_lt ha3)]
      rw [hsame]
      rcases ha with rfl | ⟨-, hshort | ⟨hmax, hopen⟩⟩
      · simp at ha3
      · omega
      · exact ⟨hmax, hopen.le⟩
  rw [sectionLength_append (by omega)]
  rw [List.length_append] at hend ⊢
  omega

/-- A fresh filter is idle (R31, R33). -/
theorem freshSlot_reasm {f : Form} {r : Reasm} (h : (freshSlot f).reasm = some r) : r = .fresh := by
  cases f <;> cases h <;> rfl

/-- A partial section that moves on stays short. -/
theorem reasm_ok_of_move {r r' : Reasm} (hr : r.ok = true) (h : AccMove r.acc r'.acc) : r'.ok = true := by
  obtain ⟨cc, acc⟩ := r
  obtain ⟨cc', acc'⟩ := r'
  cases h with
  | kept => exact hr
  | dropped => rfl
  | grown ha hd hg =>
    refine reasm_ok_of_gather (cc := cc) hd ?_ hg
    rcases ha with rfl | rfl
    · exact .inr hr
    · exact .inl rfl

theorem reasmInv_of_write {s t : State} (h : TableWrite s t) (hs : ReasmInv s) : ReasmInv t := by
  intro q r' hr'
  cases h with
  | other hft _ => exact hs q r' (by rwa [reasmAt_congr hft] at hr')
  | entry k _ => exact hs q r' hr'
  | @fresh p f _ =>
    by_cases hq : q = p
    · subst hq
      rw [reasmAt, slotAt_setSlot_same] at hr'
      rw [freshSlot_reasm hr']
      rfl
    · exact hs q r' (by rwa [reasmAt, slotAt_setSlot_other hq] at hr')
  | @reasm p r r₁ hr hm =>
    by_cases hq : q = p
    · subst hq
      rw [reasmAt_setReasm hr] at hr'
      cases hr'
      exact reasm_ok_of_move (hs q r hr) hm
    · exact hs q r' (by rwa [reasmAt_setReasm_other hq] at hr')

/-! ## Filters and the registry (R29, R167, R220) -/

/-- A filter goes on fitting while no entry becomes Absent. -/
theorem FilterFits.mono {s t : State} {p : Pid} {f : Form} (h : FilterFits s p f)
    (hpcr : ∀ k, pcrAt s k ≠ .absent → pcrAt t k ≠ .absent) : FilterFits t p f := by
  obtain ⟨hpat, hscte, hwatch⟩ := h
  exact ⟨hpat, fun e k he => ⟨(hscte e k he).1, hpcr k (hscte e k he).2⟩, fun k hk => hpcr k (hwatch k hk)⟩

theorem filterInv_of_write {s t : State} (h : TableWrite s t) (hs : FilterInv s) : FilterInv t := by
  intro q
  have hkept : FilterFits t q (formAt s q) := FilterFits.mono (hs q) fun k hk => pcrAt_ne_absent_of_write h hk
  suffices hform : formAt t q = formAt s q ∨ FilterFits t q (formAt t q) by
    rcases hform with hform | hfits
    · rwa [← hform] at hkept
    · exact hfits
  cases h with
  | other hft _ => exact .inl (formAt_congr hft q)
  | entry k _ => exact .inl rfl
  | @fresh p f hf =>
    by_cases hq : q = p
    · subst hq
      refine .inr ?_
      rw [formAt, slotAt_setSlot_same, freshSlot_form]
      exact hf.mono fun k hk => by simpa using hk
    · exact .inl (by rw [formAt, slotAt_setSlot_other hq, formAt])
  | reasm _ _ => exact .inl (formAt_setReasm _ _ s q)

end Sys2Proof.Machine
end

section
/-! PROOFS. What one instruction, one request and one step can do: the registers of MODE, the tables, the events and the
reader, said once, so that each invariant of a step is an invariant of these. -/

namespace Sys2Proof.Machine

/-! ## F_STORE (R37) -/

/-- `F_STORE` is listed by strictly rising number. -/
def StoreRising (s : State) : Prop := keysRising Config.seqSpace 0 s.fStore = true

theorem storeRising_congr {s t : State} (h : t.fStore = s.fStore) (hs : StoreRising s) : StoreRising t := by
  unfold StoreRising
  rwa [h]

theorem storeRising_fecStore (hi m : SeqNum) (p : Bytes) {s : State} (hs : StoreRising s) :
    StoreRising (fecStore hi m p s).1 := by
  unfold fecStore
  split
  · exact hs
  · exact keysRising_filter _ (keysRising_put (Nat.zero_le _) m.isLt p hs)

theorem storeRising_fecInsert (m : SeqNum) (p : Bytes) {s : State} (hs : StoreRising s) :
    StoreRising (fecInsert m p s).1 := by
  unfold fecInsert
  split
  · exact storeRising_fecStore m m p hs
  · split
    · exact storeRising_fecStore m m p hs
    · split
      · exact storeRising_fecStore _ m p hs
      · exact hs

theorem storeRising_recover (n : Nat) {s : State} (hs : StoreRising s) : StoreRising (recover n s) := by
  induction n generalizing s with
  | zero => exact hs
  | succ n ih =>
    unfold recover
    split
    · exact hs
    · simp only
      split
      · exact hs
      · exact ih (storeRising_fecInsert _ _ hs)

/-! ## Taking a datagram -/

/-- What the units that take a datagram or bytes can do: tables, FEC state, `PKTBUF` and events, and the fatal latch where
synchronisation is lost. -/
structure Received (s t : State) : Prop where
  params : t.params = s.params
  cfg : t.cfg = s.cfg
  inbox : t.inbox = s.inbox
  br : t.br = s.br
  events : eventsGrow s t
  tables : TableWrites s t
  store : StoreRising s → StoreRising t
  mode : t.mode = s.mode ∧ t.fatalCode = s.fatalCode ∨ t.mode = .fatal ∧ t.fatalCode = 2#8 ∧ t.pktbuf = []

/-- One after another, the first outside FATAL. -/
theorem Received.trans {s t u : State} (h₁ : Received s t) (hm : t.mode = s.mode ∧ t.fatalCode = s.fatalCode)
    (h₂ : Received t u) : Received s u :=
  ⟨h₂.params.trans h₁.params, h₂.cfg.trans h₁.cfg, h₂.inbox.trans h₁.inbox, h₂.br.trans h₁.br,
    eventsGrow_trans h₁.events h₂.events, h₁.tables.trans h₂.tables, h₂.store ∘ h₁.store,
    h₂.mode.imp (fun h => ⟨h.1.trans hm.1, h.2.trans hm.2⟩) id⟩

theorem Pushed.received {s t : State} (h : Pushed s t) (hw : TableWrites s t) : Received s t := by
  obtain ⟨hparams, hcfg, -, -, -, hstore, -, hbr, -, hinbox⟩ := h.frame
  exact ⟨hparams, hcfg, hinbox, hbr, h.events, hw, storeRising_congr hstore, h.mode⟩

theorem Delivered.received {s t : State} (h : Delivered s t) (hw : TableWrites s t) : Received s t :=
  ⟨h.params, h.cfg, h.inbox, h.br, h.events, hw, storeRising_congr h.fStore, h.mode⟩

theorem received_raise {x : Exn} (h : x.fatalCode = none) (s : State) : Received s (raise x s) :=
  (quiet_raise h s).pushed.received (writes_raise x s)

theorem received_demuxPush (b : Bytes) (s : State) : Received s (demuxPush b s) :=
  (pushed_demuxPush b s).received (writes_demuxPush b s)

theorem received_mainRtp (g : Bytes) (s : State) : Received s (mainRtp g s) := by
  unfold mainRtp
  split
  · exact received_raise rfl s
  · exact (rtpDeliver_spec _ _ s).1.received (writes_rtpDeliver _ _ s)

theorem received_fecAdvance (s : State) : Received s (fecAdvance s) := by
  unfold fecAdvance
  split
  · exact (Pushed.refl s).received .refl
  · obtain ⟨hrest, hevents, -⟩ := recover_spec s.fPar.length s
    have hstore : StoreRising s → StoreRising (recover s.fPar.length s) := storeRising_recover _
    have hdeliver := (deliver_spec Config.seqSpace (recover s.fPar.length s)).received (writes_deliver _ _)
    generalize recover s.fPar.length s = r at hrest hevents hstore hdeliver
    have hrecover : Received s r :=
      ⟨by rw [hrest], by rw [hrest], by rw [hrest], by rw [hrest], hevents, writes_other (by rw [hrest]) (by rw [hrest]),
        hstore, .inl ⟨by rw [hrest], by rw [hrest]⟩⟩
    exact hrecover.trans ⟨by rw [hrest], by rw [hrest]⟩ hdeliver

theorem received_fecMedia (m : SeqNum) (p : Bytes) (s : State) : Received s (fecMedia m p s) := by
  have hrest := (fecInsert_spec m p s).rest
  have hstore : StoreRising s → StoreRising (fecInsert m p s).1 := storeRising_fecInsert m p
  have hadvance := received_fecAdvance (fecInsert m p s).1
  unfold fecMedia
  generalize fecInsert m p s = w at hrest hstore hadvance
  obtain ⟨s', stored⟩ := w
  simp only at hrest hstore hadvance
  have hin : Received s s' :=
    ⟨by rw [hrest], by rw [hrest], by rw [hrest], by rw [hrest], ⟨[], by rw [hrest]; simp⟩,
      writes_other (by rw [hrest]) (by rw [hrest]), hstore, .inl ⟨by rw [hrest], by rw [hrest]⟩⟩
  cases stored with
  | false => exact hin
  | true => exact hin.trans ⟨by rw [hrest], by rw [hrest]⟩ hadvance

theorem received_fecParity (r : ParityRec) (s : State) : Received s (fecParity r s) := by
  let par := s.fPar ++ [r]
  have hjoin : Received s { s with fPar := if s.params.fecParCap < par.length then par.tail else par } :=
    ⟨rfl, rfl, rfl, rfl, ⟨[], by simp⟩, writes_other rfl rfl, id, .inl ⟨rfl, rfl⟩⟩
  exact hjoin.trans ⟨rfl, rfl⟩ (received_fecAdvance _)

theorem received_mainRtpFec (g : Bytes) (s : State) : Received s (mainRtpFec g s) := by
  unfold mainRtpFec
  split
  · exact received_raise rfl s
  · exact received_fecMedia _ _ s

theorem received_parityDgram (port : Port) (g : Bytes) (s : State) : Received s (parityDgram port g s) := by
  unfold parityDgram
  split
  · exact received_raise rfl s
  · exact received_fecParity _ s

theorem received_mainDgram (g : Bytes) (s : State) : Received s (mainDgram g s) := by
  unfold mainDgram
  split
  · exact received_demuxPush g s
  · split
    · exact received_mainRtp g s
    · exact received_mainRtpFec g s

theorem received_sizeChecked {port : Port} {g : Bytes} {act : State → State} {s : State} (h : Received s (act s)) :
    Received s (sizeChecked port g act s) := by
  unfold sizeChecked
  split
  · exact received_raise rfl s
  · exact h

/-! ## The mode machine (R25, R365) -/

/-- What latches FATAL from a mode, and with which code; `none` is a request of no row. -/
def Latches : Option Instr → Mode → BitVec 8 → Prop
  | some .rxerr, m, code => m = .net ∧ code = 19#8
  | some (.push _), m, code => m = .file ∧ code = 2#8
  | some (.dgramMain _), m, code | some (.dgramCol _), m, code | some (.dgramRow _), m, code => m = .net ∧ code = 2#8
  | some (.tsNosync _), _, code | some (.mainRaw _), _, code | some (.mainRtp _), _, code
  | some (.mainRtpFec _), _, code | some (.fecCol _), _, code | some (.fecRow _), _, code | none, _, code => code = 2#8
  | some _, _, _ => False

/-- What ends a run from a mode. -/
def Ends : Option Instr → Mode → Prop
  | some .eof, m => m = .file
  | some (.literalSection _), m => m = .sec
  | _, _ => False

/-- What an instruction but RESET can do to MODE, FATAL_CODE and CFG outside FATAL: the arrows of the mode machine. -/
inductive Move (i : Option Instr) (s t : State) : Prop
  | kept : t.mode = s.mode → t.fatalCode = s.fatalCode → t.cfg = s.cfg → Move i s t
  | configured (cfg : Byte) : s.mode = .idle → configMode cfg = some t.mode → t.fatalCode = s.fatalCode → t.cfg = cfg →
      i = some (.config cfg) ∨ i = some (decodeCfg cfg) → Move i s t
  | ended : Ends i s.mode → t.mode = .done → t.fatalCode = s.fatalCode → t.cfg = s.cfg → Move i s t
  | latched : Latches i s.mode t.fatalCode → t.mode = .fatal → t.pktbuf = [] → t.cfg = s.cfg → Move i s t

theorem code_of_latches {i : Option Instr} {m : Mode} {code : BitVec 8} (h : Latches i m code) :
    code = 2#8 ∨ code = 19#8 := by
  unfold Latches at h
  split at h
  · exact .inr h.2
  iterate 4
    · exact .inl h.2
  iterate 7
    · exact .inl h
  · exact h.elim

/-! ## One run -/

/-- What an instruction but RESET, or a request of no row (`none`), can do outside FATAL. -/
structure Ran (i : Option Instr) (s t : State) : Prop where
  params : t.params = s.params
  inbox : t.inbox = s.inbox
  events : eventsGrow s t
  tables : TableWrites s t
  store : StoreRising s → StoreRising t
  reader : i.all Instr.wf = true → CursorInv s → CursorInv t
  move : Move i s t

section
variable {i : Option Instr} {s t : State}

theorem cursorInv_congr (h : t.br = s.br) (hs : CursorInv s) : CursorInv t := by
  unfold CursorInv
  rwa [h]

theorem Received.ran (h : Received s t) (hl : Latches i s.mode 2#8) : Ran i s t where
  params := h.params
  inbox := h.inbox
  events := h.events
  tables := h.tables
  store := h.store
  reader _ := cursorInv_congr h.br
  move := by
    rcases h.mode with ⟨hmode, hcode⟩ | ⟨hmode, hcode, hbuf⟩
    · exact .kept hmode hcode h.cfg
    · exact .latched (hcode ▸ hl) hmode hbuf h.cfg

theorem Quiet.ran (h : Quiet s t) (hw : TableWrites s t) : Ran i s t :=
  ⟨h.params, h.inbox, h.events, hw, storeRising_congr h.fStore, fun _ => cursorInv_congr h.br,
    .kept h.mode h.fatalCode h.cfg⟩

theorem Ran.refl : Ran i s s := (Quiet.refl s).ran .refl

theorem ran_raise {x : Exn} (h : x.fatalCode = none) : Ran i s (raise x s) := (quiet_raise h s).ran (writes_raise x s)

theorem ran_emitAll (es : List Event) : Ran i s (emitAll es s) := (quiet_emitAll es s).ran (writes_emitAll es s)

theorem ran_literalChecks (b : Bytes) : Ran i s (literalChecks b s) := by
  obtain ⟨es, h⟩ := literalChecks_spec b s
  exact h ▸ ran_emitAll es

/-- The reader and its answer are written. -/
theorem ran_reader {br : BitReader} (h : i.all Instr.wf = true → CursorInv s → br.pos ≤ 8 * br.buf.length)
    (result : UnitResult) : Ran i s { s with br := br, result := result } :=
  ⟨rfl, rfl, ⟨[], by simp⟩, writes_other rfl rfl, id, h, .kept rfl rfl rfl⟩

/-- A parse leaves its cursor inside its buffer (R133). -/
theorem ran_runParse {α : Type} (src : Option Pid) (bytes : Bytes) {p : Parse α} (hp : p.Sound)
    (answer : α → UnitResult) : Ran i s (runParse src bytes p answer s) := by
  rw [runParse_spec]
  split
  · exact ⟨rfl, rfl, ⟨[.exn (.x11 src)], rfl⟩, writes_other rfl rfl, id, fun _ _ => Nat.le_refl 0, .kept rfl rfl rfl⟩
  · next hr =>
    obtain ⟨-, -, hpos⟩ := hp _ _ _ (Nat.zero_le _) hr
    exact ran_reader (fun _ _ => hpos) _

theorem ran_runRoute {form : Form} {u : RouteUnit} {act : State → State} (h : Ran i s (act s)) :
    Ran i s (runRoute form u act s) := by
  unfold runRoute
  split
  · exact h
  · exact Ran.refl

theorem ran_endOfFile (hi : Ends i s.mode) : Ran i s (endOfFile s) := by
  unfold endOfFile
  simp only
  split
  · exact ⟨rfl, rfl, ⟨[], by simp⟩, writes_other rfl rfl, id, fun _ => id, .ended hi rfl rfl rfl⟩
  · have hq : Quiet s (raise (.x03 s.pktbuf.length) s) := quiet_raise rfl s
    exact ⟨hq.params, hq.inbox, hq.events, writes_other (by simp) (by simp), storeRising_congr hq.fStore,
      fun _ => cursorInv_congr hq.br, .ended hi rfl hq.fatalCode hq.cfg⟩

theorem ran_skipPmtDescriptor (pid : Pid) (bytes : Bytes) : Ran i s (skipPmtDescriptor pid bytes s) := by
  unfold skipPmtDescriptor
  split
  · exact Ran.refl
  · exact ran_raise rfl
  · split
    · exact ran_raise rfl
    · exact ran_reader (fun _ h => h) _

/-! ## Through the gates -/

theorem ran_of_inUnit (hm : s.mode ≠ .fatal) {act : State → State} (h : inUnit act s = .next t)
    (hact : Ran i s (act s)) : Ran i s t := by
  rw [inUnit_live hm] at h
  exact Host.Outcome.next.inj h ▸ hact

theorem ran_of_command (hm : s.mode ≠ .fatal) {code : Byte} {legal : Bool} {act : State → State}
    (h : command code legal act s = .next t) (hact : legal = true → Ran i s (act s)) : Ran i s t := by
  cases legal with
  | true =>
    rw [command_legal hm] at h
    exact Host.Outcome.next.inj h ▸ hact rfl
  | false =>
    rw [command_refused hm] at h
    exact Host.Outcome.next.inj h ▸ ran_emitAll [.exn (.x20 code)]

theorem ran_of_configure (hm : s.mode ≠ .fatal) {cfg : Byte} {m : Mode} (h : configure cfg m s = .next t)
    (hmode : configMode cfg = some m) (hi : i = some (.config cfg) ∨ i = some (decodeCfg cfg)) : Ran i s t :=
  ran_of_command hm h fun hidle =>
    ⟨rfl, rfl, ⟨[], by simp⟩, writes_other rfl rfl, id, fun _ => id,
      .configured cfg (by simpa using hidle) hmode rfl rfl hi⟩

/-- DGRAM.MAIN, and the requests of no row that it takes. -/
theorem ran_of_execDgramMain (hm : s.mode ≠ .fatal) {g : Bytes} (h : execDgramMain g s = .next t)
    (hl : s.mode = .net → Latches i s.mode 2#8) : Ran i s t :=
  ran_of_command hm h fun hnet => (received_sizeChecked (received_mainDgram g s)).ran (hl (by simpa using hnet))

end

/-! ## Parses of the splice unit -/

theorem spliceTimeP_sound : spliceTimeP.Sound := by
  unfold spliceTimeP
  refine bindP_sound (readP_sound _) fun f => ?_
  split
  · exact bindP_sound (skipP_sound _) fun _ => bindP_sound (readP_sound _) fun _ => pureP_sound _
  · exact bindP_sound (skipP_sound _) fun _ => pureP_sound _

theorem timeUnlessImmediateP_sound (sif : BitVec 1) : (timeUnlessImmediateP sif).Sound := by
  unfold timeUnlessImmediateP
  split
  · exact pureP_sound _
  · exact spliceTimeP_sound

theorem componentListP_sound (sif : BitVec 1) (n : Nat) : (componentListP sif n).Sound := by
  induction n with
  | zero => exact pureP_sound _
  | succ n ih =>
    exact bindP_sound (readP_sound _) fun _ => bindP_sound (timeUnlessImmediateP_sound sif) fun _ =>
      bindP_sound ih fun _ => pureP_sound _

theorem spliceModeP_sound (psf sif : BitVec 1) : (spliceModeP psf sif).Sound := by
  unfold spliceModeP
  split
  · exact bindP_sound (timeUnlessImmediateP_sound sif) fun _ => pureP_sound _
  · exact bindP_sound (readP_sound _) fun _ => bindP_sound (componentListP_sound sif _) fun _ => pureP_sound _

theorem durationP_sound : durationP.Sound :=
  bindP_sound (readP_sound _) fun _ => bindP_sound (skipP_sound _) fun _ => bindP_sound (readP_sound _) fun _ =>
    pureP_sound _

theorem optDurationP_sound (df : BitVec 1) : (optDurationP df).Sound := by
  unfold optDurationP
  split
  · exact bindP_sound durationP_sound fun _ => pureP_sound _
  · exact pureP_sound _

theorem insertDetailP_sound : insertDetailP.Sound :=
  bindP_sound (readP_sound _) fun _ => bindP_sound (readP_sound _) fun _ => bindP_sound (readP_sound _) fun _ =>
    bindP_sound (readP_sound _) fun _ => bindP_sound (skipP_sound _) fun _ =>
      bindP_sound (spliceModeP_sound _ _) fun _ => bindP_sound (optDurationP_sound _) fun _ =>
        bindP_sound (readP_sound _) fun _ => bindP_sound (readP_sound _) fun _ => bindP_sound (readP_sound _) fun _ =>
          pureP_sound _

theorem insertP_sound : insertP.Sound := by
  refine bindP_sound (readP_sound _) fun _ => bindP_sound (readP_sound _) fun _ => bindP_sound (skipP_sound _) fun _ => ?_
  split
  · exact pureP_sound _
  · exact bindP_sound insertDetailP_sound fun _ => pureP_sound _

theorem insertDurationP_sound : insertDurationP.Sound :=
  bindP_sound (skipP_sound _) fun _ => bindP_sound (skipP_sound _) fun _ => bindP_sound (readP_sound _) fun _ =>
    bindP_sound (skipP_sound _) fun _ => bindP_sound (readP_sound _) fun _ => bindP_sound (skipP_sound _) fun _ =>
      bindP_sound (spliceModeP_sound _ _) fun _ => durationP_sound

/-! ## Every instruction and every request -/

theorem configure_fatal {s : State} (hm : s.mode = .fatal) (cfg : Byte) (m : Mode) : configure cfg m s = .next s :=
  command_fatal hm _ _ _

/-- Nothing but RESET is processed in FATAL (R156, R370, R396). -/
theorem exec_fatal {i : Instr} {s : State} (hm : s.mode = .fatal) (hi : i ≠ .reset) : exec i s = .next s := by
  unfold exec
  cases i with
  | reset => exact absurd rfl hi
  | config cfg =>
    simp only [execConfig]
    split
    · exact configure_fatal hm _ _
    · exact command_fatal hm _ _ _
  | configFile | configNetRaw | configSection | configNetRtp | configNetRtpFec => exact configure_fatal hm _ _
  | push | eof | dgramMain | dgramCol | dgramRow | literalSection | rxerr | hostIllegal | configIllegal =>
    exact command_fatal hm _ _ _
  | _ => exact inUnit_fatal hm _

/-- What each instruction but RESET can do outside FATAL. -/
theorem ran_of_exec {i : Instr} {s t : State} (hm : s.mode ≠ .fatal) (hi : i ≠ .reset) (h : exec i s = .next t) :
    Ran (some i) s t := by
  unfold exec at h
  cases i with
  | reset => exact absurd rfl hi
  | config cfg =>
    simp only [execConfig] at h
    split at h
    · next hmode => exact ran_of_configure hm h hmode (.inl rfl)
    · exact ran_of_command hm h fun hl => by cases hl
  | configFile | configNetRaw | configSection | configNetRtp | configNetRtpFec =>
    exact ran_of_configure hm h rfl (.inr rfl)
  | configIllegal | hostIllegal => exact ran_of_command hm h fun hl => by cases hl
  | push b => exact ran_of_command hm h fun hl => (received_demuxPush b s).ran ⟨by simpa using hl, rfl⟩
  | eof => exact ran_of_command hm h fun hl => ran_endOfFile (by simpa [Ends] using hl)
  | dgramMain g => exact ran_of_execDgramMain hm h fun hnet => ⟨hnet, rfl⟩
  | dgramCol g | dgramRow g =>
    refine ran_of_command hm h fun hl => (received_sizeChecked (received_parityDgram _ g s)).ran ⟨?_, rfl⟩
    simp only [Bool.and_eq_true, beq_iff_eq] at hl
    exact hl.1
  | literalSection b =>
    refine ran_of_command hm h fun hl => ?_
    obtain ⟨es, he⟩ := literalChecks_spec b { s with mode := .done }
    rw [he]
    exact ⟨rfl, rfl, ⟨es, rfl⟩, writes_other rfl rfl, id, fun _ => id, .ended (by simpa [Ends] using hl) rfl rfl rfl⟩
  | rxerr =>
    exact ran_of_command hm h fun hl =>
      ⟨rfl, rfl, ⟨[.exn .x19], rfl⟩, writes_other rfl rfl, id, fun _ => id,
        .latched ⟨by simpa using hl, rfl⟩ rfl rfl rfl⟩
  | tsPayload hd b => exact ran_of_inUnit hm h ((quiet_payloadPacket hd b s).ran (writes_route _ s))
  | tsAdapt hd b => exact ran_of_inUnit hm h ((quiet_adaptPacket hd b s).ran (writes_adaptPacket hd b s))
  | tsAdaptPayload hd b =>
    exact ran_of_inUnit hm h ((quiet_adaptPayloadPacket hd b s).ran (writes_adaptPayloadPacket hd b s))
  | tsAfcReserved | fecMalformed => exact ran_of_inUnit hm h (ran_raise rfl)
  | tsNosync b =>
    have hjoin : Received s { s with pktbuf := s.pktbuf ++ b } := (pushed_pktbuf _ s).received (writes_other rfl rfl)
    refine ran_of_inUnit hm h (Received.ran ?_ rfl)
    simp only
    split
    · exact hjoin
    · split
      · exact hjoin
      · exact hjoin.trans ⟨rfl, rfl⟩ ((resync_spec _).1.received (writes_resync _))
  | routeEmpty u =>
    exact ran_of_inUnit hm h (ran_runRoute (((quiet_setSlot _ _ s).trans (quiet_routeBuilt u _)).ran
      ((writes_construct u.pid s).trans (writes_routeBuilt u _))))
  | routeNull => exact ran_of_inUnit hm h (ran_runRoute Ran.refl)
  | routePat u | routePmt _ u | routeScte35 _ _ u =>
    exact ran_of_inUnit hm h (ran_runRoute ((quiet_routeSection u s).ran (writes_routeSection u s)))
  | routePcrwatch k u => exact ran_of_inUnit hm h (ran_runRoute ((quiet_routePcr k u s).ran (writes_routePcr k u s)))
  | secPat | secPmt | secSplice | secOther =>
    exact ran_of_inUnit hm h ((quiet_runSection _ _ s).ran (writes_runSection _ _ s))
  | secStuffing pid rest =>
    refine ran_of_inUnit hm h ?_
    cases pid with
    | none => exact ran_literalChecks _
    | some => exact Ran.refl
  | spliceEncrypted | spliceNull | spliceSchedule | spliceInsert | timeSignal | bandwidthReservation | privateCommand
  | spliceReserved => exact ran_of_inUnit hm h (ran_emitAll _)
  | insertCancel | insertProgramTimed | insertProgramImmediate | insertComponentTimed | insertComponentImmediate =>
    exact ran_of_inUnit hm h (ran_runParse _ _ insertP_sound _)
  | insertDuration => exact ran_of_inUnit hm h (ran_runParse _ _ insertDurationP_sound _)
  | spliceTimeSpecified | spliceTimeUnspecified =>
    exact ran_of_inUnit hm h (ran_runParse _ _ spliceTimeP_sound _)
  | spliceDescriptor src tag len rest =>
    refine ran_of_inUnit hm h ?_
    split
    · exact ran_raise rfl
    · exact ran_emitAll [.descriptor src tag (rest.take len.toNat)]
  | pmtRegistrationCuei =>
    refine ran_of_inUnit hm h ?_
    split
    · exact ran_raise rfl
    · exact ran_reader (fun _ hs => hs) _
  | mainRaw g => exact ran_of_inUnit hm h ((received_demuxPush g s).ran rfl)
  | mainRtp g => exact ran_of_inUnit hm h ((received_mainRtp g s).ran rfl)
  | mainRtpFec g => exact ran_of_inUnit hm h ((received_mainRtpFec g s).ran rfl)
  | fecCol u | fecRow u => exact ran_of_inUnit hm h ((received_fecParity _ s).ran rfl)
  | rtpMalformed port => exact ran_of_inUnit hm h (by cases port <;> exact ran_raise rfl)
  | rtpV2 | brPos | brAligned => exact ran_of_inUnit hm h (ran_reader (fun _ hs => hs) _)
  | brInit buf p => exact ran_of_inUnit hm h (ran_reader (br := ⟨buf, p⟩) (fun hwf _ => by simpa [Instr.wf] using hwf) s.result)
  | brRead n =>
    refine ran_of_inUnit hm h ?_
    rw [brRead_eq]
    split
    · exact ran_reader (fun _ hs => hs) _
    · next he =>
      split at he
      · next hpos => cases he; exact ran_reader (fun _ _ => hpos) _
      · cases he
  | brSkip n =>
    refine ran_of_inUnit hm h ?_
    rw [brSkip_eq]
    split
    · exact ran_reader (fun _ hs => hs) _
    · next he =>
      split at he
      · next hpos => cases he; exact ran_reader (fun _ _ => hpos) _
      · cases he

/-- What each request of no row can do outside FATAL. -/
theorem ran_of_offTable {r : Request} {s t : State} (hm : s.mode ≠ .fatal) (h : offTable r s = .next t) :
    Ran none s t := by
  unfold offTable at h
  split at h
  · exact ran_of_command hm h fun hl => by cases hl
  · exact ran_of_inUnit hm h ((received_demuxPush _ s).ran rfl)
  · exact ran_of_inUnit hm h ((quiet_route _ s).ran (writes_route _ s))
  · exact ran_of_inUnit hm h (ran_literalChecks _)
  · exact ran_of_inUnit hm h ((quiet_feedLoose _ _ s).ran (writes_feedLoose _ _ s))
  · exact ran_of_inUnit hm h (ran_emitAll _)
  · exact ran_of_inUnit hm h (ran_runParse _ _ insertP_sound _)
  · exact ran_of_inUnit hm h (ran_runParse _ _ insertP_sound _)
  · exact ran_of_inUnit hm h (ran_runParse _ _ spliceTimeP_sound _)
  · exact ran_of_inUnit hm h (ran_emitAll _)
  · exact ran_of_inUnit hm h (ran_skipPmtDescriptor _ _)
  · exact ran_of_execDgramMain hm h fun _ => rfl
  · exact ran_of_execDgramMain hm h fun _ => rfl
  all_goals exact Host.Outcome.next.inj h ▸ Ran.refl

/-! ## One step -/

/-- The state RESET ends in (R361). -/
def resetFrom (s : State) : State := { State.reset with params := s.params, events := s.events, inbox := s.inbox }

/-- An invariant of every step: one that taking a request, RESET and a run of a well-formed instruction or a request of no
row all keep. -/
theorem step_induct {P : State → Prop} (htake : ∀ s rest, P s → P { s with inbox := rest })
    (hreset : ∀ s, P s → P (resetFrom s))
    (hran : ∀ i s t, i.all Instr.wf = true → s.mode ≠ .fatal → Ran i s t → P s → P t) {s t : State} (hs : P s)
    (h : step s = .next t) : P t := by
  unfold step at h
  split at h
  · cases h; exact hs
  next r rest _ =>
  have hs' : P { s with inbox := rest } := htake s rest hs
  generalize { s with inbox := rest } = s' at h hs'
  by_cases hm : s'.mode = .fatal
  all_goals split at h
  · next i hd =>
    by_cases hi : i = .reset
    · subst hi; cases h; exact hreset _ hs'
    · rw [exec_fatal hm hi] at h; cases h; exact hs'
  · rw [offTable_fatal hm] at h; cases h; exact hs'
  · next i hd =>
    by_cases hi : i = .reset
    · subst hi; cases h; exact hreset _ hs'
    · exact hran (some i) _ _ (wf_of_decode hd) hm (ran_of_exec hm hi h) hs'
  · exact hran none _ _ rfl hm (ran_of_offTable hm h) hs'

end Sys2Proof.Machine
end

section
/-! PROOFS. The invariants of a step, and the frame and the mode machine of an instruction, read off what a run can do. -/

namespace Sys2Proof.Machine

/-! ## The control registers -/

theorem cfgOk_of_configMode {cfg : Byte} {m : Mode} (h : configMode cfg = some m) : cfgOk m cfg = true := by
  unfold configMode at h
  repeat' split at h
  all_goals cases h
  all_goals (subst_vars; rfl)

theorem configMode_ne_fatal (cfg : Byte) : configMode cfg ≠ some .fatal := by
  unfold configMode
  repeat' split
  all_goals simp

/-- Every operand that goes with a mode may stand in FATAL. -/
theorem cfgOk_fatal {m : Mode} {cfg : BitVec 8} (h : cfgOk m cfg = true) : cfgOk .fatal cfg = true := by
  cases m <;> simp only [cfgOk, legalCfg, Bool.or_eq_true, beq_iff_eq] at h ⊢ <;> tauto

theorem cfgOk_done_of_ends {i : Option Instr} {m : Mode} {cfg : BitVec 8} (hi : Ends i m) (h : cfgOk m cfg = true) :
    cfgOk .done cfg = true := by
  unfold Ends at hi
  split at hi
  · subst hi; exact Bool.or_eq_true_iff.mpr (.inl h)
  · subst hi; exact Bool.or_eq_true_iff.mpr (.inr h)
  · exact hi.elim

theorem fatalOk_live {s : State} (hm : s.mode ≠ .fatal) : fatalOk s = (s.fatalCode == 0#8) := if_neg hm

/-- Every arrow of the mode machine keeps CFG, FATAL_CODE and `PKTBUF` in agreement with MODE. -/
theorem controlInv_of_move {i : Option Instr} {s t : State} (hm : s.mode ≠ .fatal) (h : Move i s t)
    (hs : ControlInv s) : ControlInv t := by
  obtain ⟨hcfgOk, hfatal⟩ := hs
  rw [fatalOk_live hm] at hfatal
  unfold ControlInv
  cases h with
  | kept hmode hcode hcfg =>
    rw [fatalOk_live (hmode ▸ hm), hmode, hcode, hcfg]
    exact ⟨hcfgOk, hfatal⟩
  | configured cfg _ hmode hcode hcfg _ =>
    have hok := cfgOk_of_configMode hmode
    have hlive : t.mode ≠ .fatal := fun he => configMode_ne_fatal cfg (he ▸ hmode)
    rw [fatalOk_live hlive, hcode, hcfg]
    exact ⟨hok, hfatal⟩
  | ended hi hmode hcode hcfg =>
    rw [fatalOk_live (by simp [hmode]), hmode, hcode, hcfg]
    exact ⟨cfgOk_done_of_ends hi hcfgOk, hfatal⟩
  | latched hl hmode hbuf hcfg =>
    rw [hmode, hcfg]
    refine ⟨cfgOk_fatal hcfgOk, ?_⟩
    rcases code_of_latches hl with hcode | hcode <;> simp [fatalOk, hmode, hbuf, hcode]

/-- Settles O12: every arrow of the mode machine keeps the registers in agreement, and every parse and bit-reader call its
cursor inside the buffer. -/
theorem controlRegistersStayLegal : Obligations.ControlRegistersStayLegal := by
  intro s t hcontrol hcursor h
  refine step_induct (P := fun s => ControlInv s ∧ CursorInv s) (fun _ _ hs => hs) (fun s _ => ⟨⟨rfl, rfl⟩, Nat.le_refl 0⟩)
    (fun i s t hwf hm hr hs => ?_) ⟨hcontrol, hcursor⟩ h
  exact ⟨controlInv_of_move hm hr.move hs.1, hr.reader hwf hs.2⟩

/-! ## The tables -/

/-- Settles O14: every table write keeps the form, and the FEC unit stores by key. -/
theorem tablesStayCanonical : Obligations.TablesStayCanonical := by
  intro s t hs h
  refine step_induct (P := fun s => Memory.wf s = true) (fun _ _ hs => hs) (fun s _ => memory_wf_reset)
    (fun i s t _ _ hr hs => ?_) hs h
  rw [memory_wf_iff_tables] at hs ⊢
  exact ⟨hr.tables.induct (fun _ _ => tablesWf_of_write) hs.1, hr.store hs.2⟩

/-- Settles O15: every table write keeps partial sections short (`reasm_ok_of_gather`). -/
theorem partialSectionsStayShort : Obligations.PartialSectionsStayShort := by
  intro s t hs h
  refine step_induct (P := ReasmInv) (fun _ _ hs => hs) (fun s _ p r hr => ?_)
    (fun i s t _ _ hr hs => hr.tables.induct (fun _ _ => reasmInv_of_write) hs) hs h
  cases hr

/-- Settles O16: a filter is given only where it fits (`FilterFits`), and no entry becomes Absent but by RESET. -/
theorem filtersStayConsistent : Obligations.FiltersStayConsistent := by
  intro s t hs h
  refine step_induct (P := FilterInv) (fun _ _ hs => hs) (fun s _ p => ?_)
    (fun i s t _ _ hr hs => hr.tables.induct (fun _ _ => filterInv_of_write) hs) hs h
  have hempty : formAt (resetFrom s) p = .empty := rfl
  simp [hempty]

/-! ## The frame of an instruction -/

/-- CFG is written by CONFIG and its rows alone (R24). -/
theorem cfg_eq_of_move {i : Instr} {s t : State} (h : Move (some i) s t)
    (hrow : i ∉ [Instr.reset, .configFile, .configNetRaw, .configSection, .configNetRtp, .configNetRtpFec])
    (hcmd : ∀ c, i ≠ .config c) : t.cfg = s.cfg := by
  cases h with
  | kept _ _ hcfg => exact hcfg
  | ended _ _ _ hcfg => exact hcfg
  | latched _ _ _ hcfg => exact hcfg
  | configured cfg _ hmode _ _ hi =>
    refine absurd ?_ hrow
    obtain rfl : i = decodeCfg cfg := by
      rcases hi with hi | hi
      · exact absurd (Option.some.inj hi) (hcmd cfg)
      · exact Option.some.inj hi
    unfold configMode at hmode
    unfold decodeCfg
    repeat' split at hmode
    all_goals simp_all

/-- Settles O13: a run only appends events, and writes CFG only along a CONFIG arrow. -/
theorem instructionsKeepHistoryAndConfiguration : Obligations.InstructionsKeepHistoryAndConfiguration := by
  intro i s t h
  by_cases hi : i = .reset
  · subst hi
    cases h
    exact ⟨⟨[], by simp⟩, fun _ => rfl, rfl, rfl, fun hrow => absurd (by simp) hrow, fun hn => absurd rfl hn⟩
  by_cases hm : s.mode = .fatal
  · rw [exec_fatal hm hi] at h
    cases h
    exact ⟨eventsGrow_refl s, fun _ => rfl, rfl, rfl, fun _ _ => rfl, fun _ _ hk => hk⟩
  have hr := ran_of_exec hm hi h
  exact ⟨hr.events, fun he => absurd he hi, hr.params, hr.inbox, cfg_eq_of_move hr.move,
    fun _ k hk => hr.tables.induct (P := fun s => pcrAt s k ≠ .absent) (fun _ _ hw => pcrAt_ne_absent_of_write hw) hk⟩

/-! ## The mode machine -/

/-- The arrows from IDLE, each with the commands that take it (R362). -/
theorem mode_of_configured {i : Instr} {cfg : Byte} {m : Mode} (hmode : configMode cfg = some m)
    (hi : i = .config cfg ∨ i = decodeCfg cfg) :
    (m = .file ∧ i ∈ [Instr.config 0x01#8, .configFile]) ∨
      (m = .net ∧ i ∈ [Instr.config 0x02#8, .config 0x0A#8, .config 0x0E#8, .configNetRaw, .configNetRtp,
        .configNetRtpFec]) ∨
      (m = .sec ∧ i ∈ [Instr.config 0x03#8, .configSection]) := by
  unfold configMode at hmode
  repeat' split at hmode
  all_goals cases hmode
  all_goals (subst_vars; rcases hi with rfl | rfl <;> simp [decodeCfg])

/-- Settles O10: the arrows of `Move`, with the commands that `Ends` and `Latches` put on them. -/
theorem modeMovesOnlyAlongTheMachine : Obligations.ModeMovesOnlyAlongTheMachine := by
  intro i s t h
  by_cases hi : i = .reset
  · subst hi
    cases h
    exact .inr (.inl ⟨rfl, rfl⟩)
  by_cases hm : s.mode = .fatal
  · rw [exec_fatal hm hi] at h
    cases h
    exact .inl rfl
  cases (ran_of_exec hm hi h).move with
  | kept hmode => exact .inl hmode
  | configured cfg hidle hmode _ _ hrow =>
    exact .inr (.inr (.inl ⟨hidle, mode_of_configured hmode (by simpa using hrow)⟩))
  | ended hend hmode =>
    unfold Ends at hend
    split at hend
    · next he => exact .inr (.inr (.inr (.inl ⟨hend, hmode, Option.some.inj he⟩)))
    · next b he => exact .inr (.inr (.inr (.inr (.inl ⟨hend, hmode, b, Option.some.inj he⟩))))
    · exact hend.elim
  | latched hl hmode hbuf =>
    refine .inr (.inr (.inr (.inr (.inr ⟨hmode, hbuf, ?_⟩))))
    unfold Latches at hl
    split at hl
    · next he => cases he; exact .inl ⟨hl.1, rfl, hl.2⟩
    · next b he => cases he; exact .inr ⟨hl.2, .inl ⟨hl.1, b, rfl⟩⟩
    iterate 3
      · next g he => cases he; exact .inr ⟨hl.2, .inr (.inl ⟨hl.1, g, by simp⟩)⟩
    iterate 4
      · next b he => cases he; exact .inr ⟨hl, .inr (.inr ⟨hm, .inl ⟨b, by simp⟩⟩)⟩
    iterate 2
      · next u he => cases he; exact .inr ⟨hl, .inr (.inr ⟨hm, .inr ⟨u, by simp⟩⟩)⟩
    · next he => cases he
    · exact hl.elim

end Sys2Proof.Machine
end

section
/-! PROOFS. What `PKTBUF` holds between host transactions (R26): a push leaves less than a packet or an undecided hunt. -/

namespace Sys2Proof.Machine

/-! ## HUNT (R154) -/

/-- An undecided hunt has seen no more than its candidates and one packet after the last. -/
theorem length_le_of_wait {left k : Nat} {b : Bytes} (h : huntFrom left k b = .wait) : b.length < left + Config.tsPkt := by
  induction left generalizing k b with
  | zero => cases h
  | succ left ih =>
    cases b with
    | nil => simp [Config.tsPkt]
    | cons c rest =>
      unfold huntFrom at h
      split at h
      · have := ih h
        rw [List.length_cons]
        omega
      · split at h
        · next hend =>
          have := List.getElem?_eq_none_iff.mp hend
          omega
        · split at h
          · cases h
          · have := ih h
            rw [List.length_cons]
            omega

/-- A confirmed candidate is one of those tried. -/
theorem le_of_found {left k n : Nat} {b : Bytes} (h : huntFrom left k b = .found n) : k ≤ n := by
  induction left generalizing k b with
  | zero => cases h
  | succ left ih =>
    cases b with
    | nil => cases h
    | cons c rest =>
      unfold huntFrom at h
      split at h
      · exact (Nat.le_succ k).trans (ih h)
      · split at h
        · cases h
        · split at h
          · cases h; exact Nat.le_refl _
          · exact (Nat.le_succ k).trans (ih h)

/-! ## The framing loop (R151) -/

/-- The bound speaks of `PKTBUF` and the parameters only. -/
theorem pktbufInv_congr {s t : State} (hbuf : t.pktbuf = s.pktbuf) (hparams : t.params = s.params) (hs : PktbufInv s) :
    PktbufInv t := by
  unfold PktbufInv
  rwa [hbuf, hparams]

theorem pktbufInv_nil {s : State} (h : s.pktbuf = []) : PktbufInv s := by
  simp [PktbufInv, h]

theorem Quiet.pktbufInv {s t : State} (h : Quiet s t) (hs : PktbufInv s) : PktbufInv t :=
  pktbufInv_congr h.pktbuf h.params hs

/-- One resynchronisation: it goes on with at least a byte less, or leaves a bounded buffer. -/
theorem resync_pktbuf {s : State} {b : Byte} {rest : Bytes} (hbuf : s.pktbuf = b :: rest) (hb : b ≠ Config.syncByte) :
    ((resync s).2 = true ∧ (resync s).1.mode = s.mode ∧ (resync s).1.pktbuf.length < s.pktbuf.length) ∨
      ((resync s).2 = false ∧ PktbufInv (resync s).1) := by
  unfold resync
  split
  · next hwait =>
    have hlen := length_le_of_wait hwait
    refine .inr ⟨rfl, ?_⟩
    simp only [PktbufInv, hbuf, if_neg hb]
    simp only [hbuf, List.drop_one, List.tail_cons, List.length_cons] at hlen ⊢
    omega
  · next n hfound =>
    have hpos : 1 ≤ n := le_of_found hfound
    have hq : Quiet _ (raise (.x01 n) { s with pktbuf := s.pktbuf.drop n }) := quiet_raise rfl _
    refine .inl ⟨rfl, hq.mode, ?_⟩
    rw [hq.pktbuf, List.length_drop, hbuf, List.length_cons]
    omega
  · exact .inr ⟨rfl, pktbufInv_nil rfl⟩

/-- The loop ends on a bounded buffer: its fuel, a unit per byte, does not run out before. -/
theorem pktbufInv_frameLoop {n : Nat} {s : State} (hm : s.mode ≠ .fatal) (hn : s.pktbuf.length ≤ n) :
    PktbufInv (frameLoop n s) := by
  induction n generalizing s with
  | zero => exact pktbufInv_nil (List.length_eq_zero_iff.mp (Nat.le_zero.mp hn))
  | succ n ih =>
    unfold frameLoop
    rw [if_neg hm]
    split
    · next hbuf => exact pktbufInv_nil hbuf
    next b rest hbuf =>
    split
    · next hsync =>
      split
      · next hshort => simpa [PktbufInv, hbuf, hsync] using hshort
      · have hq := quiet_packet (s.pktbuf.take Config.tsPkt) { s with pktbuf := s.pktbuf.drop Config.tsPkt }
        refine ih (by rw [hq.mode]; exact hm) ?_
        rw [hq.pktbuf, List.length_drop]
        have hpkt : 0 < Config.tsPkt := by decide
        omega
    · next hb =>
      have hr := resync_pktbuf hbuf hb
      split
      · next s' he =>
        rw [he] at hr
        obtain ⟨-, hmode, hlen⟩ := hr.resolve_right fun h => Bool.noConfusion h.1
        simp only at hmode hlen
        exact ih (hmode ▸ hm) (by omega)
      · next s' he =>
        rw [he] at hr
        exact (hr.resolve_left fun h => Bool.noConfusion h.1).2

theorem pktbufInv_demuxPush {s : State} (hm : s.mode ≠ .fatal) (b : Bytes) : PktbufInv (demuxPush b s) :=
  pktbufInv_frameLoop hm (Nat.le_refl _)

/-! ## Datagrams -/

theorem pktbufInv_rtpDeliver {s : State} (hm : s.mode ≠ .fatal) (q : SeqNum) (p : Bytes) :
    PktbufInv (rtpDeliver q p s) := by
  unfold rtpDeliver
  refine pktbufInv_demuxPush ?_ p
  simp only
  split
  · exact hm
  · split
    · exact hm
    · exact hm

theorem pktbufInv_deliver (n : Nat) {s : State} (hm : s.mode ≠ .fatal) (hs : PktbufInv s) : PktbufInv (deliver n s) := by
  induction n generalizing s with
  | zero => exact hs
  | succ n ih =>
    unfold deliver
    split
    · next q _ _ _ =>
      split
      · next pay _ =>
        have hd := pktbufInv_rtpDeliver (s := { s with fNext := some (q + 1#16) }) hm q pay
        simp only
        split
        · exact hd
        · next hlive => exact ih hlive hd
      · split
        · exact ih hm hs
        · exact hs
    · exact hs

theorem pktbufInv_fecAdvance {s : State} (hm : s.mode ≠ .fatal) (hs : PktbufInv s) : PktbufInv (fecAdvance s) := by
  unfold fecAdvance
  split
  · exact hs
  · have h := (recover_spec s.fPar.length s).rest
    exact pktbufInv_deliver _ (by rw [h]; exact hm) (pktbufInv_congr (by rw [h]) (by rw [h]) hs)

theorem pktbufInv_fecMedia {s : State} (hm : s.mode ≠ .fatal) (hs : PktbufInv s) (m : SeqNum) (p : Bytes) :
    PktbufInv (fecMedia m p s) := by
  have hrest := (fecInsert_spec m p s).rest
  unfold fecMedia
  generalize fecInsert m p s = w at hrest
  obtain ⟨s', stored⟩ := w
  simp only at hrest
  have hin : PktbufInv s' := pktbufInv_congr (by rw [hrest]) (by rw [hrest]) hs
  cases stored with
  | false => exact hin
  | true => exact pktbufInv_fecAdvance (by rw [hrest]; exact hm) hin

theorem pktbufInv_parityDgram {s : State} (hm : s.mode ≠ .fatal) (hs : PktbufInv s) (port : Port) (g : Bytes) :
    PktbufInv (parityDgram port g s) := by
  unfold parityDgram
  split
  · exact (quiet_raise rfl s).pktbufInv hs
  · exact pktbufInv_fecAdvance hm hs

theorem pktbufInv_mainDgram {s : State} (hm : s.mode ≠ .fatal) (hs : PktbufInv s) (g : Bytes) :
    PktbufInv (mainDgram g s) := by
  unfold mainDgram
  split
  · exact pktbufInv_demuxPush hm g
  split
  · unfold mainRtp
    split
    · exact (quiet_raise rfl s).pktbufInv hs
    · exact pktbufInv_rtpDeliver hm _ _
  · unfold mainRtpFec
    split
    · exact (quiet_raise rfl s).pktbufInv hs
    · exact pktbufInv_fecMedia hm hs _ _

theorem pktbufInv_sizeChecked {s : State} (hs : PktbufInv s) (port : Port) (g : Bytes) {act : State → State}
    (hact : PktbufInv (act s)) : PktbufInv (sizeChecked port g act s) := by
  unfold sizeChecked
  split
  · exact (quiet_raise rfl s).pktbufInv hs
  · exact hact

/-! ## Host transactions (R120) -/

/-- The rows of the host commands. -/
def isCommand : Instr → Bool
  | .reset | .config _ | .push _ | .eof | .dgramMain _ | .dgramCol _ | .dgramRow _ | .literalSection _ | .rxerr
  | .hostIllegal _ _ => true
  | _ => false

/-- A decoder's answer that is a host command, if it is an instruction. -/
def AnswersCommand (d : Decoded) : Prop := ∀ i, d = .instr i → isCommand i = true

theorem answersCommand_instr {i : Instr} (h : isCommand i = true) : AnswersCommand (.instr i) :=
  fun _ he => Decoded.instr.inj he ▸ h

theorem answersCommand_reject (r : Reject) : AnswersCommand (.reject r) := fun _ he => by cases he

theorem answersCommand_ite {c : Prop} [Decidable c] {d e : Decoded} (hd : AnswersCommand d) (he : AnswersCommand e) :
    AnswersCommand (if c then d else e) := by
  split
  · exact hd
  · exact he

theorem answersCommand_decodeHost (code : Byte) (operand : Bytes) : AnswersCommand (decodeHost code operand) := by
  have bare : ∀ {i : Instr} {r : Reject}, isCommand i = true →
      AnswersCommand (if operand.isEmpty then .instr i else .reject r) := fun hi =>
    answersCommand_ite (answersCommand_instr hi) (answersCommand_reject _)
  have hconfig : AnswersCommand (decodeHost 0x01#8 operand) := by
    match operand with
    | [] => exact answersCommand_reject _
    | [_] => exact answersCommand_instr rfl
    | _ :: _ :: _ => exact answersCommand_reject _
  unfold decodeHost
  refine answersCommand_ite (bare rfl) (answersCommand_ite hconfig ?_)
  refine answersCommand_ite (answersCommand_instr rfl) (answersCommand_ite (bare rfl) ?_)
  iterate 4 refine answersCommand_ite (answersCommand_instr rfl) ?_
  exact answersCommand_ite (bare rfl) (answersCommand_instr rfl)

theorem pktbufInv_of_command {code : Byte} {legal : Bool} {act : State → State} {s t : State} (hs : PktbufInv s)
    (h : command code legal act s = .next t) (hact : PktbufInv (act s)) : PktbufInv t := by
  rcases command_cases h with rfl | rfl | ⟨-, rfl⟩
  · exact hs
  · exact (quiet_raise rfl s).pktbufInv hs
  · exact hact

/-- Every host command keeps the bound. -/
theorem pktbufInv_of_exec {i : Instr} (hi : isCommand i = true) {s t : State} (hs : PktbufInv s)
    (h : exec i s = .next t) : PktbufInv t := by
  by_cases hreset : i = .reset
  · subst hreset; cases h; exact pktbufInv_nil rfl
  by_cases hm : s.mode = .fatal
  · rw [exec_fatal hm hreset] at h; cases h; exact hs
  unfold exec at h
  cases i with
  | reset => exact absurd rfl hreset
  | config cfg =>
    simp only [execConfig] at h
    split at h
    · exact pktbufInv_of_command hs h (pktbufInv_congr rfl rfl hs)
    · exact pktbufInv_of_command hs h hs
  | push b => exact pktbufInv_of_command hs h (pktbufInv_demuxPush hm b)
  | eof => exact pktbufInv_of_command hs h (pktbufInv_nil rfl)
  | dgramMain g => exact pktbufInv_of_command hs h (pktbufInv_sizeChecked hs _ g (pktbufInv_mainDgram hm hs g))
  | dgramCol g | dgramRow g =>
    exact pktbufInv_of_command hs h (pktbufInv_sizeChecked hs _ g (pktbufInv_parityDgram hm hs _ g))
  | literalSection b =>
    obtain ⟨es, he⟩ := literalChecks_spec b { s with mode := .done }
    exact pktbufInv_of_command hs h (by simp only [he]; exact pktbufInv_congr rfl rfl hs)
  | rxerr => exact pktbufInv_of_command hs h (pktbufInv_nil rfl)
  | hostIllegal => exact pktbufInv_of_command hs h hs
  | _ => cases hi

/-- Settles O19: a push ends on a bounded buffer (`pktbufInv_frameLoop`), and no other host command adds to it. -/
theorem pktbufStaysBounded : Obligations.PktbufStaysBounded := by
  intro s t hs hhost h
  unfold step at h
  split at h
  · cases h; exact hs
  next r rest hinbox =>
  have hs' : PktbufInv { s with inbox := rest } := pktbufInv_congr rfl rfl hs
  have hr : r.isHost = true := hhost r (by simp [hinbox])
  cases r with
  | host code operand =>
    split at h
    · next hd => exact pktbufInv_of_exec (answersCommand_decodeHost code operand _ hd) hs' h
    · simp only [offTable] at h
      exact pktbufInv_of_command hs' h hs'
  | _ => cases hr

end Sys2Proof.Machine
end

section
/-! PROOFS. PAT and PMT processing: what a list of classifications makes of each slot, and the sections that are applied
whole or not at all. -/

namespace Sys2Proof.Machine

/-! ## A list of classifications (R232) -/

/-- Classifications applied in order. -/
def classifyAll (cs : List (Pid × Form)) (s : State) : State := cs.foldl (fun s c => classify c.1 c.2 s) s

/-- The forms that a list gives a PID, in order. -/
def formsFor (cs : List (Pid × Form)) (q : Pid) : List Form := (cs.filter fun c => c.1 == q).map Prod.snd

theorem applyPat_eq (ps : List (BitVec 16 × Pid)) (s : State) :
    applyPat ps s = classifyAll (ps.map fun e => (e.2, .pmt e.1)) s := by
  rw [applyPat, classifyAll, List.foldl_map]

/-- The registry entry that pass 2 of R225 makes before it classifies (R228). -/
def withEntry (pid : Pid) (s : State) : State := if pcrAt s pid = .absent then setPcr pid .noPcr s else s

theorem applyPmt_eq (pid : Pid) (es : List (Pid × Bool)) (s : State) :
    applyPmt pid es s = classifyAll (es.map fun e => (e.1, streamForm pid e)) (withEntry pid s) := by
  rw [applyPmt, withEntry, classifyAll, List.foldl_map]

theorem classifyAll_concat (cs : List (Pid × Form)) (c : Pid × Form) (s : State) :
    classifyAll (cs ++ [c]) s = classify c.1 c.2 (classifyAll cs s) := by
  simp [classifyAll]

theorem formsFor_concat_same (cs : List (Pid × Form)) (q : Pid) (f : Form) :
    formsFor (cs ++ [(q, f)]) q = formsFor cs q ++ [f] := by
  simp [formsFor]

theorem formsFor_concat_other {c : Pid × Form} {q : Pid} (h : c.1 ≠ q) (cs : List (Pid × Form)) :
    formsFor (cs ++ [c]) q = formsFor cs q := by
  simp [formsFor, h]

/-- CLASSIFY writes the filter table alone. -/
theorem classify_frame (p : Pid) (f : Form) (s : State) : classify p f s = { s with ft := (classify p f s).ft } := by
  unfold classify
  split <;> rfl

theorem classifyAll_frame (cs : List (Pid × Form)) (s : State) :
    classifyAll cs s = { s with ft := (classifyAll cs s).ft } := by
  induction cs using List.reverseRecOn with
  | nil => rfl
  | append_singleton cs c ih =>
    rw [classifyAll_concat, classify_frame]
    generalize (classify c.1 c.2 (classifyAll cs s)).ft = ft
    rw [ih]

/-- CLASSIFY on the slot itself: an equal form stays as it is, any other becomes a fresh filter. -/
theorem slotAt_classify_same {f : Form} (hf : f ≠ .empty) (q : Pid) (s : State) :
    slotAt (classify q f s) q = if formAt s q = f then slotAt s q else freshSlot f := by
  unfold classify
  by_cases h : formAt s q = f <;> simp [h, hf]

/-- A slot that is not listed stays. -/
theorem slotAt_classifyAll_unlisted {cs : List (Pid × Form)} {q : Pid} (h : formsFor cs q = []) (s : State) :
    slotAt (classifyAll cs s) q = slotAt s q := by
  induction cs using List.reverseRecOn with
  | nil => rfl
  | append_singleton cs c ih =>
    obtain ⟨p, f⟩ := c
    rw [classifyAll_concat]
    by_cases hp : p = q
    · subst hp
      simp [formsFor_concat_same] at h
    · rw [formsFor_concat_other hp] at h
      rw [slotAt_classify_other (Ne.symm hp), ih h]

/-- A listed slot ends in the form listed last. -/
theorem formAt_classifyAll {cs : List (Pid × Form)} {q : Pid} {f : Form} (h : (formsFor cs q).getLast? = some f)
    (s : State) : formAt (classifyAll cs s) q = f := by
  induction cs using List.reverseRecOn with
  | nil => simp [formsFor] at h
  | append_singleton cs c ih =>
    obtain ⟨p, g⟩ := c
    rw [classifyAll_concat]
    by_cases hp : p = q
    · subst hp
      rw [formsFor_concat_same, List.getLast?_concat] at h
      rw [formAt_classify_same]
      exact Option.some.inj h
    · rw [formsFor_concat_other hp] at h
      rw [formAt, slotAt_classify_other (Ne.symm hp)]
      exact ih h

/-- A listed slot is as before if it had the form that every listing gives it, and else a fresh filter of the last one. -/
theorem slotAt_classifyAll {cs : List (Pid × Form)} {q : Pid} {f : Form} (h : (formsFor cs q).getLast? = some f)
    (hf : f ≠ .empty) (s : State) :
    slotAt (classifyAll cs s) q =
      if formAt s q = f ∧ ∀ g ∈ formsFor cs q, g = f then slotAt s q else freshSlot f := by
  induction cs using List.reverseRecOn with
  | nil => simp [formsFor] at h
  | append_singleton cs c ih =>
    obtain ⟨p, g⟩ := c
    rw [classifyAll_concat]
    by_cases hp : p = q
    · subst hp
      rw [formsFor_concat_same, List.getLast?_concat] at h
      obtain rfl : g = f := Option.some.inj h
      simp only [formsFor_concat_same, List.forall_mem_append, List.forall_mem_singleton, and_true]
      rw [slotAt_classify_same hf]
      cases hlast : (formsFor cs p).getLast? with
      | none =>
        have hnil := List.getLast?_eq_none_iff.mp hlast
        have hsame := slotAt_classifyAll_unlisted hnil s
        simp [formAt, hsame, hnil]
      | some g' =>
        rw [formAt_classifyAll hlast]
        by_cases hg : g' = g
        · subst hg
          rw [if_pos rfl, ih hlast]
        · rw [if_neg hg, if_neg fun hall => hg (hall.2 g' (List.mem_of_getLast? hlast))]
    · rw [formsFor_concat_other hp] at h ⊢
      rw [slotAt_classify_other (Ne.symm hp), ih h]

/-! ## A section row on a section filter (R198, R200) -/

/-- The two header bytes hold the header word. -/
theorem be16_word (w : BitVec 16) : w.extractLsb' 8 8 ++ w.extractLsb' 0 8 = w :=
  (BitVec.extractLsb'_append_extractLsb'_eq_extractLsb' (start₁ := 0) (len₁ := 8) rfl).trans BitVec.extractLsb'_eq_self

theorem sectionLength_sectionBytes (t : Byte) (h : SectionHeader) (body : Bytes) :
    sectionLength (sectionBytes t h body) = h.sectionLength := by
  calc sectionLength (sectionBytes t h body) = (sectionWord h).extractLsb' 0 12 := by
        rw [← be16_word (sectionWord h)]
        rfl
    _ = h.sectionLength := by
        rw [sectionWord, BitVec.extractLsb'_append_eq_right]

/-- A section filter takes a section of legal length to COMPLETE. -/
theorem runSection_legal {pid : Pid} {sec : Bytes} {s : State} {want : Byte}
    (hwant : wantedTableId (formAt s pid) = some want) (hlen : (sectionLength sec).toNat ≤ 4093) :
    runSection (some pid) sec s = complete pid sec s := by
  have hmax : ¬ Config.maxSectionLength < (sectionLength sec).toNat := Nat.not_lt.mpr hlen
  simp [runSection, hwant, hmax]

/-- A longer one is X05 (R198). -/
theorem runSection_long {pid : Pid} {sec : Bytes} {s : State} {want : Byte}
    (hwant : wantedTableId (formAt s pid) = some want) (hlen : 4093 < (sectionLength sec).toNat) :
    runSection (some pid) sec s = raise (.x05 (some pid) (sectionLength sec)) s := by
  have hmax : Config.maxSectionLength < (sectionLength sec).toNat := hlen
  simp [runSection, hwant, hmax]

/-- A wrong CRC is X08 (R201). -/
theorem complete_badCrc {pid : Pid} {sec : Bytes} {s : State} {want : Byte}
    (hwant : wantedTableId (formAt s pid) = some want) (hcrc : crcGood sec = false) :
    complete pid sec s = raise (.x08 (some pid)) s := by
  simp [complete, hwant, hcrc]

/-- A good CRC and the table_id of the filter: the section is processed (R200). -/
theorem complete_good {pid : Pid} {sec : Bytes} {s : State} (hwant : wantedTableId (formAt s pid) = some (byteAt sec 0))
    (hcrc : crcGood sec = true) : complete pid sec s = processSection pid (formAt s pid) sec s := by
  simp [complete, hwant, hcrc]

/-! ## PAT (R221 to R224) -/

/-- The entries of an area of whole entries, by index (R98). -/
theorem patEntries_eq (n : Nat) (B : Bytes) (h : B.length = 4 * n) :
    patEntries B = (List.range n).map fun i => (u16be B (4 * i), (u16be B (4 * i + 2)).extractLsb' 0 13) := by
  induction n generalizing B with
  | zero => rw [List.length_eq_zero_iff.mp h]; rfl
  | succ n ih =>
    match B, h with
    | a :: b :: c :: d :: rest, h =>
      have hrest : rest.length = 4 * n := by simpa [Nat.mul_succ] using h
      rw [patEntries, ih rest hrest, List.range_succ_eq_map, List.map_cons, List.map_map]
      rfl

/-- The entry area of a section read in place. -/
theorem byteAt_area {sec : Bytes} {m j : Nat} (h : j < m) : byteAt ((sec.drop 8).take m) j = byteAt sec (8 + j) := by
  simp [byteAt, List.getD_eq_getElem?_getD, h]

theorem u16be_area {sec : Bytes} {m j : Nat} (h : j + 1 < m) : u16be ((sec.drop 8).take m) j = u16be sec (8 + j) := by
  rw [u16be, byteAt_area (by omega), byteAt_area h, u16be, Nat.add_assoc]

/-- The programs of a well-formed PAT are its entries with non-zero program_number (R98, R224 b). -/
theorem patPrograms_eq {sec : Bytes} (hlen : 12 ≤ sec.length) (hwhole : (sec.length - 12) % 4 = 0) :
    patPrograms sec = ((List.range ((sec.length - 12) / 4)).map (patEntry sec)).filter fun e => e.1 != 0#16 := by
  have harea : ((sec.drop 8).take (sec.length - 12)).length = 4 * ((sec.length - 12) / 4) := by
    rw [List.length_take, List.length_drop]
    omega
  rw [patPrograms, patEntries_eq _ _ harea]
  refine congrArg (List.filter _) (List.map_congr_left fun i hi => ?_)
  have hi := List.mem_range.mp hi
  rw [u16be_area (by omega), u16be_area (by omega), patEntry, show 10 + 4 * i = 8 + (4 * i + 2) by omega]

/-- The forms a PAT gives a PID are Pmt of the numbers that name it. -/
theorem formsFor_pat {sec : Bytes} (hlen : 12 ≤ sec.length) (hwhole : (sec.length - 12) % 4 = 0) (q : Pid) :
    formsFor ((patPrograms sec).map fun e => (e.2, .pmt e.1)) q = (patNamed sec q).map Form.pmt := by
  rw [formsFor, patNamed, patPrograms_eq hlen hwhole, List.filter_map, List.filter_filter]
  simp only [List.map_map, Function.comp_def, Bool.and_comm]

/-- Settles O33: the PAT is a list of classifications (`slotAt_classifyAll`), each of one form. -/
theorem patNamesPmtFilters : Obligations.PatNamesPmtFilters := by
  intro pid h body s hm hpat hmax sec hcrc
  have hwant : wantedTableId (formAt s pid) = some (byteAt sec 0) := by rw [hpat]; rfl
  have hrun : exec (.secPat (some pid) h body) s = .next (patSection pid sec s) := by
    calc exec (.secPat (some pid) h body) s = .next (runSection (some pid) sec s) := inUnit_live hm _
      _ = .next (processSection pid (formAt s pid) sec s) := by
        rw [runSection_legal hwant (by rw [sectionLength_sectionBytes]; exact hmax), complete_good hwant hcrc]
      _ = .next (patSection pid sec s) := by rw [hpat]; rfl
  rw [hrun]
  refine ⟨fun hbad => ?_, fun hlen hwhole => ?_⟩
  · have : patBad sec = true := by simpa [patBad] using hbad
    rw [patSection, if_pos this]
    rfl
  have hgood : ¬ patBad sec = true := by simp [patBad, hlen, hwhole]
  rw [patSection, if_neg hgood, applyPat_eq]
  refine ⟨_, rfl, classifyAll_frame _ s, fun q => ⟨fun hnone => ?_, fun pn hlast => ?_⟩⟩
  · exact slotAt_classifyAll_unlisted (by rw [formsFor_pat hlen hwhole, hnone]; rfl) s
  · rw [slotAt_classifyAll (f := .pmt pn) (by rw [formsFor_pat hlen hwhole, List.getLast?_map, hlast]; rfl) (by simp) s,
      formsFor_pat hlen hwhole]
    simp only [List.forall_mem_map, Form.pmt.injEq]
    rfl

/-! ## PMT (R225 to R229) -/

theorem streamForm_ne_empty (pid : Pid) (e : Pid × Bool) : streamForm pid e ≠ .empty := by
  unfold streamForm
  split <;> simp

/-- Two listings of one PID give one form only if both or neither are CUEI-registered. -/
theorem streamForm_inj {pid : Pid} {e e' : Pid × Bool} (h : e'.1 = e.1) :
    streamForm pid e' = streamForm pid e ↔ e'.2 = e.2 := by
  obtain ⟨p, b⟩ := e
  obtain ⟨p', b'⟩ := e'
  cases b <;> cases b' <;> simp_all [streamForm]

theorem formsFor_streams (pid : Pid) (es : List (Pid × Bool)) (q : Pid) :
    formsFor (es.map fun e => (e.1, streamForm pid e)) q = (es.filter fun e => e.1 == q).map (streamForm pid) := by
  rw [formsFor, List.filter_map, List.map_map]
  rfl

/-- Pass 2 makes an Absent entry of the PMT's PID NoPcr and leaves every other (R228). -/
theorem pcrAt_withEntry (pid : Pid) (s : State) (k : Pid) :
    pcrAt (withEntry pid s) k = if k = pid ∧ pcrAt s pid = .absent then .noPcr else pcrAt s k := by
  unfold withEntry
  by_cases ha : pcrAt s pid = .absent
  · by_cases hk : k = pid
    · subst hk; simp [ha]
    · simp [ha, hk, pcrAt_setPcr_other hk]
  · simp [ha]

theorem slotAt_withEntry (pid : Pid) (s : State) (q : Pid) : slotAt (withEntry pid s) q = slotAt s q := by
  unfold withEntry
  split <;> simp

theorem withEntry_frame (pid : Pid) (s : State) : withEntry pid s = { s with pcrreg := (withEntry pid s).pcrreg } := by
  unfold withEntry
  split <;> rfl

theorem applyPmt_frame (pid : Pid) (es : List (Pid × Bool)) (s : State) :
    applyPmt pid es s = { s with ft := (applyPmt pid es s).ft, pcrreg := (applyPmt pid es s).pcrreg } := by
  rw [applyPmt_eq, classifyAll_frame]
  generalize (classifyAll _ (withEntry pid s)).ft = ft
  rw [withEntry_frame]

theorem pcrAt_applyPmt (pid : Pid) (es : List (Pid × Bool)) (s : State) (k : Pid) :
    pcrAt (applyPmt pid es s) k = if k = pid ∧ pcrAt s pid = .absent then .noPcr else pcrAt s k := by
  rw [applyPmt_eq, classifyAll_frame, ← pcrAt_withEntry]
  rfl

/-- What a PMT makes of the slot of a stream it lists (R229, R232). -/
theorem slotAt_applyPmt {pid q : Pid} {es : List (Pid × Bool)} {e : Pid × Bool}
    (h : (es.filter fun e => e.1 == q).getLast? = some e) (s : State) :
    slotAt (applyPmt pid es s) q =
      if formAt s q = streamForm pid e ∧ ∀ e' ∈ es.filter fun e => e.1 == q, e'.2 = e.2 then slotAt s q
      else freshSlot (streamForm pid e) := by
  have hpid : ∀ e' ∈ es.filter fun e => e.1 == q, e'.1 = q := fun e' he => by simpa using (List.mem_filter.mp he).2
  have hlisted : (∀ g ∈ (es.filter fun e => e.1 == q).map (streamForm pid), g = streamForm pid e) ↔
      ∀ e' ∈ es.filter fun e => e.1 == q, e'.2 = e.2 := by
    rw [List.forall_mem_map]
    refine forall₂_congr fun e' he => streamForm_inj ?_
    rw [hpid e' he, hpid e (List.mem_of_getLast? h)]
  rw [applyPmt_eq, slotAt_classifyAll (f := streamForm pid e)
    (by rw [formsFor_streams, List.getLast?_map, h]; rfl) (streamForm_ne_empty pid e), formsFor_streams]
  refine if_congr (and_congr ?_ hlisted) (slotAt_withEntry pid s q) rfl
  rw [formAt, slotAt_withEntry, formAt]

/-- Settles O34: the section is parsed before anything is written, and what is written is a registry entry and a list of
classifications (`slotAt_applyPmt`). -/
theorem pmtIsAppliedWholeOrNotAtAll : Obligations.PmtIsAppliedWholeOrNotAtAll := by
  intro pid pn h body s hm hpmt sec only classified
  have hwant : wantedTableId (formAt s pid) = some (byteAt sec 0) := by rw [hpmt]; rfl
  have hsl : sectionLength sec = h.sectionLength := sectionLength_sectionBytes _ h body
  have hrun : exec (.secPmt (some pid) h body) s = .next (runSection (some pid) sec s) := inUnit_live hm _
  refine ⟨fun hlong => ?_, fun hmax hbad => ?_, fun hmax hcrc => ?_⟩
  · show exec _ s = _
    rw [hrun, runSection_long hwant (by rwa [hsl]), hsl]
    rfl
  · show exec _ s = _
    rw [hrun, runSection_legal hwant (by rwa [hsl]), complete_badCrc hwant hbad]
    rfl
  have hsec : exec (.secPmt (some pid) h body) s = .next (pmtSection pid pn sec s) := by
    rw [hrun, runSection_legal hwant (by rwa [hsl]), complete_good hwant hcrc, hpmt]
    rfl
  simp only [only, hsec, pmtSection]
  refine ⟨fun hp => by rw [hp]; rfl, fun n hp => by rw [hp]; rfl, fun es hp => ?_⟩
  refine ⟨applyPmt pid es s, by rw [hp], applyPmt_frame pid es s, pcrAt_applyPmt pid es s, fun q => ⟨fun hnone => ?_, fun e hlast => ?_⟩⟩
  · rw [applyPmt_eq, slotAt_classifyAll_unlisted (by rw [formsFor_streams, hnone]; rfl), slotAt_withEntry]
  · have hq : e.1 = q := by simpa using (List.mem_filter.mp (List.mem_of_getLast? hlast)).2
    have hform : streamForm pid e = classified e.2 q := by rw [← hq]; rfl
    rw [slotAt_applyPmt hlast, hform]
    refine if_congr Iff.rfl rfl ?_
    cases e.2 <;> rfl

end Sys2Proof.Machine
end

section
/-! PROOFS. Words of each family and their rows, and the entry of an exception. -/

namespace Sys2Proof.Machine

/-- A whole packet with adaptation_field_control 01 is TS.PAYLOAD, whatever its body (R91, R92). -/
theorem decodeTs_payload {b1 b2 b3 : Byte} {body : Bytes} (hafc : tsAfc (b1 ++ b2 ++ b3) = 1#2) (hlen : body.length = 184) :
    decodeTs (Config.syncByte :: b1 :: b2 :: b3 :: body) = .instr (.tsPayload (tsFields (b1 ++ b2 ++ b3)) body) := by
  simp [decodeTs, hafc, hlen]

/-- Settles O2: each word decodes by evaluation, whatever the keys that its family does not consult. -/
theorem decodedWordsAreTheirRows : Obligations.DecodedWordsAreTheirRows := by
  intro k zeros
  have hpacket := decodeTs_payload (b1 := 0x5F#8) (b2 := 0xFE#8) (b3 := 0x9A#8) (body := zeros) rfl List.length_replicate
  exact ⟨rfl, rfl, rfl, rfl, rfl, hpacket, rfl, rfl, rfl, rfl, rfl, rfl, rfl, rfl, rfl, rfl, rfl, rfl, rfl, rfl, rfl⟩

/-- The two fatal exceptions (R390). -/
theorem fatalCode_eq_none {x : Exn} (h₂ : x ≠ .x02) (h₁₉ : x ≠ .x19) : x.fatalCode = none := by
  cases x with
  | x02 => exact absurd rfl h₂
  | x19 => exact absurd rfl h₁₉
  | _ => rfl

/-- STATUS after a fatal exception: its number and the code of FATAL (R25, R396). -/
theorem status_raise_fatal {x : Exn} {code : BitVec 8} (h : x.fatalCode = some code) (s : State) :
    status (raise x s) = code ++ 0#5 ++ 7#3 := by
  rw [raise_fatal h]
  rfl

/-- STATUS outside FATAL: the code of MODE (R25). -/
theorem status_eq {s : State} {m : Mode} (hcode : s.fatalCode = 0#8) (hm : s.mode = m) :
    status s = 0#8 ++ 0#5 ++ m.code := by
  rw [status, hcode, hm]

/-- Settles O11: `raise` is `emit` for every exception without a fatal code, and STATUS puts two fields together. -/
theorem exceptionEntryAndStatus : Obligations.ExceptionEntryAndStatus := by
  intro x s fatal
  refine ⟨fun h₂ h₁₉ => raise_recoverable (fatalCode_eq_none h₂ h₁₉) s, rfl, rfl, fun hnet => ?_,
    (status_raise_fatal rfl s).trans (by decide), (status_raise_fatal rfl s).trans (by decide), fun hcode => ?_⟩
  · have hlive : s.mode ≠ .fatal := by simp [hnet]
    calc exec .rxerr s = command 0x08#8 (s.mode == .net) (raise .x19) s := rfl
      _ = .next (raise .x19 s) := by rw [hnet]; exact command_legal hlive _ _
  · exact ⟨status_eq hcode, status_eq hcode, status_eq hcode, status_eq hcode, status_eq hcode⟩

end Sys2Proof.Machine
end

section
/-! PROOFS. Every instruction ends in a next state, so every step does; and what a push of bytes leaves. -/

namespace Sys2Proof.Machine

/-- No instruction stops the device (R69, R391): each is a gate around a state change. -/
theorem exec_next (i : Instr) (s : State) : ∃ t, exec i s = .next t := by
  cases i with
  | config cfg =>
    simp only [exec, execConfig]
    split <;> exact ⟨_, rfl⟩
  | _ => exact ⟨_, rfl⟩

theorem step_waiting {s : State} (h : s.inbox = []) : step s = .next s := by simp [step, h]

theorem step_instr {s : State} {r : Request} {rest : List Request} {i : Instr} (h : s.inbox = r :: rest)
    (hd : s.decodeRequest r = .instr i) : step s = exec i { s with inbox := rest } := by simp [step, h, hd]

theorem step_reject {s : State} {r : Request} {rest : List Request} {e : Reject} (h : s.inbox = r :: rest)
    (hd : s.decodeRequest r = .reject e) : step s = offTable r { s with inbox := rest } := by simp [step, h, hd]

/-- Every step ends in a next state. -/
theorem step_next (s : State) : ∃ t, step s = .next t := by
  unfold step
  split
  · exact ⟨s, rfl⟩
  split
  · exact exec_next _ _
  · exact offTable_next _ _

/-- Settles O1: one equation per branch of `step`, and neither `exec` nor `offTable` stops. -/
theorem stepRunsTheDecodedRequest : Obligations.StepRunsTheDecodedRequest := by
  refine fun s => ⟨step_waiting, fun _ _ _ => step_instr, fun _ _ _ => step_reject, ?_, step_next s⟩
  intro code operand rest e hin hd hm
  calc step s = command code false (fun s => s) { s with inbox := rest } := step_reject hin hd
    _ = .next { s with inbox := rest, events := s.events ++ [.exn (.x20 code)] } :=
      command_refused (s := { s with inbox := rest }) hm _ _

/-- TS.NOSYNC appends its bytes and hunts at most once (R153 to R156). -/
theorem pushed_tsNosync (b : Bytes) {s : State} (hm : s.mode ≠ .fatal) :
    ∃ t, exec (.tsNosync b) s = .next t ∧ Pushed s t := by
  show ∃ t, execTsNosync b s = .next t ∧ Pushed s t
  rw [execTsNosync, inUnit_live hm]
  refine ⟨_, rfl, ?_⟩
  have happend := pushed_pktbuf (s.pktbuf ++ b) s
  dsimp only
  split
  · exact happend
  split
  · exact happend
  · exact happend.trans rfl rfl (resync_spec _).1

/-- In raw UDP DGRAM.MAIN is a push (R301, R366): bits 2 and 3 of CFG are clear, so neither the size check nor a header. -/
theorem exec_dgramMain_raw {s : State} (hnet : s.mode = .net) (hcfg : s.cfg = 0x02#8) (b : Bytes) :
    exec (.dgramMain b) s = .next (demuxPush b s) := by
  have hfec : fecOn s = false := by rw [fecOn, hcfg]; decide
  have hrtp : rtpOn s = false := by rw [rtpOn, hcfg]; decide
  calc exec (.dgramMain b) s = command 0x04#8 (s.mode == .net) (sizeChecked .main b (mainDgram b)) s := rfl
    _ = .next (sizeChecked .main b (mainDgram b) s) := by rw [hnet]; exact command_legal (by simp [hnet]) _ _
    _ = .next (demuxPush b s) := by simp [sizeChecked, mainDgram, hfec, hrtp, mainRaw]

/-- Settles O22: three of the rows are `demuxPush`, and the fourth is one pass of its loop. -/
theorem pushFrame : Obligations.PushFrame := by
  intro b s completes
  have completes_of_pushed : ∀ {i : Instr}, (∃ t, exec i s = .next t ∧ Pushed s t) → completes i :=
    fun ⟨t, ht, hp⟩ => ⟨t, ht, hp.frame, hp.events, hp.mode⟩
  refine ⟨fun hfile => ?_, fun hnet hcfg => ?_, fun hm => ?_, fun hm => completes_of_pushed (pushed_tsNosync b hm)⟩
  · refine completes_of_pushed ⟨_, ?_, pushed_demuxPush b s⟩
    calc exec (.push b) s = command 0x02#8 (s.mode == .file) (demuxPush b) s := rfl
      _ = .next (demuxPush b s) := by rw [hfile]; exact command_legal (by simp [hfile]) _ _
  · exact completes_of_pushed ⟨_, exec_dgramMain_raw hnet hcfg b, pushed_demuxPush b s⟩
  · exact completes_of_pushed ⟨_, inUnit_live hm _, pushed_demuxPush b s⟩

end Sys2Proof.Machine
end

section
/-! PROOFS. What the packets of one section filter can do (R191 to R204): a sequence of three kinds of step, and what each
step keeps. -/

namespace Sys2Proof.Machine

/-! ## Section filters and the rows that name them -/

/-- A slot has a reassembler exactly where its form accepts a table_id (R29, R202). -/
theorem exists_reasmAt_iff {s : State} {p : Pid} : (∃ r, reasmAt s p = some r) ↔ wantedTableId (formAt s p) ≠ none := by
  unfold reasmAt formAt
  cases slotAt s p <;> simp [Slot.reasm, Slot.form, wantedTableId]

theorem accAt_eq {s : State} {p : Pid} {r : Reasm} (h : reasmAt s p = some r) : accAt s p = r.acc := by
  rw [accAt, h]; rfl

/-- The row of a section filter hands the payload to CONSUME where the slot still has its form, and does nothing elsewhere
(R162, R191). -/
theorem exec_routeRow {f : Form} (hf : wantedTableId f ≠ none) {u : RouteUnit} {d : Bytes} (hd : u.payload = some d)
    {s : State} (hm : s.mode ≠ .fatal) :
    exec (routeRow f u) s = .next (if formAt s u.pid = f then consume u.pid u.pusi u.cc d s else s) := by
  have hrun : exec (routeRow f u) s = inUnit (runRoute f u (routeSection u)) s := by
    cases f with
    | empty | null | pcrWatch => exact absurd rfl hf
    | pat | pmt | scte35 => rfl
  rw [hrun, inUnit_live hm, runRoute, routeSection, hd]

/-! ## COMPLETE on the filter's own slot (R203) -/

/-- Classifications that never name a slot's own form leave the slot or replace it by a fresh one of another form. -/
theorem slotAt_classifyAll_avoiding {cs : List (Pid × Form)} {q : Pid} {s : State}
    (h : ∀ c ∈ cs, c.2 ≠ .empty ∧ c.2 ≠ formAt s q) :
    slotAt (classifyAll cs s) q = slotAt s q ∨
      ∃ g, g ≠ formAt s q ∧ slotAt (classifyAll cs s) q = freshSlot g := by
  cases hlast : (formsFor cs q).getLast? with
  | none => exact .inl (slotAt_classifyAll_unlisted (List.getLast?_eq_none_iff.mp hlast) s)
  | some g =>
    obtain ⟨c, hc, rfl⟩ := List.mem_map.mp (List.mem_of_getLast? hlast)
    obtain ⟨hne, hother⟩ := h c (List.mem_filter.mp hc).1
    refine .inr ⟨c.2, hother, ?_⟩
    rw [slotAt_classifyAll hlast hne, if_neg fun hsame => hother hsame.1.symm]

theorem streamForm_ne_pmt (pid : Pid) (e : Pid × Bool) (pn : BitVec 16) : streamForm pid e ≠ .pmt pn := by
  unfold streamForm
  split <;> simp

/-- COMPLETE leaves the slot of its own PID, or replaces it by a fresh filter of another form: a PAT makes Pmt filters
alone, a PMT none. -/
theorem slotAt_complete_same (p : Pid) (sec : Bytes) (s : State) :
    slotAt (complete p sec s) p = slotAt s p ∨ ∃ g, g ≠ formAt s p ∧ slotAt (complete p sec s) p = freshSlot g := by
  unfold complete
  split
  · exact .inl rfl
  split
  · exact .inl (slotAt_raise _ s p)
  split
  · exact .inl (slotAt_raise _ s p)
  cases hform : formAt s p with
  | empty | null | pcrWatch | scte35 => exact .inl rfl
  | pat =>
    simp only [processSection, patSection]
    split
    · exact .inl (slotAt_raise _ s p)
    · rw [applyPat_eq, ← hform]
      exact slotAt_classifyAll_avoiding (List.forall_mem_map.mpr fun e _ => by simp [hform])
  | pmt pn =>
    simp only [processSection, pmtSection]
    split
    · exact .inl (slotAt_raise _ s p)
    · exact .inl (slotAt_raise _ s p)
    · have hentry : formAt (withEntry p s) p = .pmt pn := by rw [formAt, slotAt_withEntry, ← hform, formAt]
      rw [applyPmt_eq, ← slotAt_withEntry p s p, ← hentry]
      exact slotAt_classifyAll_avoiding (List.forall_mem_map.mpr fun e _ =>
        ⟨streamForm_ne_empty p e, hentry ▸ streamForm_ne_pmt p e pn⟩)

/-- A section that is no table of its filter, or comes on a Scte35 filter, has no effect but events (R200 to R202). -/
theorem complete_emits {p : Pid} {sec : Bytes} {s : State}
    (h : wantedTableId (formAt s p) = some (byteAt sec 0) → ∃ e k, formAt s p = .scte35 e k) :
    ∃ es, complete p sec s = emitAll es s := by
  cases hwant : wantedTableId (formAt s p) with
  | none => exact ⟨[], by simp [complete, hwant, emitAll]⟩
  | some want =>
    by_cases hcrc : crcGood sec = false
    · exact ⟨_, (complete_badCrc hwant hcrc).trans (raise_recoverable rfl s)⟩
    by_cases htid : byteAt sec 0 = want
    · obtain ⟨e, k, hform⟩ := h (by rw [hwant, htid])
      rw [complete_good (by rw [hwant, htid]) (by simpa using hcrc), hform]
      exact ⟨_, rfl⟩
    · have hx09 : complete p sec s = raise (.x09 (some p) (byteAt sec 0)) s := by simp [complete, hwant, hcrc, htid]
      exact ⟨_, hx09.trans (raise_recoverable rfl s)⟩

/-! ## The steps of a packet -/

/-- One thing that the reassembler of a filter of form `f` does after its continuity step. -/
inductive FilterStep (p : Pid) (f : Form) (s : State) : State → Prop
  | acc (a : Option Bytes) : formAt s p = f → FilterStep p f s (setAcc p a s)
  | notice {x : Exn} : x.fatalCode = none → FilterStep p f s (raise x s)
  | whole (sec : Bytes) : formAt s p = f → FilterStep p f s (complete p sec s)

/-- Steps one after another. -/
abbrev FilterSteps (p : Pid) (f : Form) : State → State → Prop := Relation.ReflTransGen (FilterStep p f)

/-- A partial section dropped with its exception (R193, R194, R198). -/
theorem filterSteps_drop {p : Pid} {f : Form} {x : Exn} {s : State} (hf : formAt s p = f) (hx : x.fatalCode = none) :
    FilterSteps p f s (setAcc p none (raise x s)) :=
  .head (.notice hx) (.single (.acc none ((formAt_raise x s p).trans hf)))

/-- FEED is such a sequence, and says truly whether the filter was replaced (R195, R203). -/
theorem filterSteps_feed (n : Nat) {p : Pid} {f : Form} (data : Bytes) (fresh : Bool) {s : State} (hf : formAt s p = f) :
    FilterSteps p f s (feed n p f data fresh s).1 ∧
      ((feed n p f data fresh s).2 = false ↔ formAt (feed n p f data fresh s).1 p = f) := by
  induction n generalizing data s with
  | zero => exact ⟨.refl, by simp [feed, hf]⟩
  | succ n ih =>
    unfold feed
    split
    · exact ⟨.refl, by simp [hf]⟩
    split
    · exact ⟨.refl, by simp [hf]⟩
    split
    · exact ⟨.single (.acc _ hf), by simp [hf]⟩
    · exact ⟨filterSteps_drop hf rfl, by simp [hf]⟩
    · next sec rest _ =>
      have hwhole : FilterSteps p f s (complete p sec (setAcc p none s)) :=
        .head (.acc none hf) (.single (.whole sec (by simp [hf])))
      simp only
      split
      · next hform => exact ⟨hwhole, by simp [hform]⟩
      · next hform =>
        obtain ⟨hsteps, hreplaced⟩ := ih rest (not_not.mp hform)
        exact ⟨hwhole.trans hsteps, hreplaced⟩

theorem filterSteps_consumeStart {p : Pid} {f : Form} (ptr : Byte) (d : Bytes) {s : State} (hf : formAt s p = f) :
    FilterSteps p f s (consumeStart p f ptr d s) := by
  unfold consumeStart
  split
  · exact filterSteps_drop hf rfl
  simp only
  split
  · exact (filterSteps_feed _ _ _ hf).1
  obtain ⟨htail, hreplaced⟩ := filterSteps_feed (d.take ptr.toNat).length (d.take ptr.toNat) false hf
  split
  · exact htail
  · next hno =>
    have hkept := hreplaced.mp (Bool.eq_false_iff.mpr hno)
    split
    · exact htail.trans (filterSteps_feed _ _ _ hkept).1
    · refine (htail.trans (filterSteps_drop hkept rfl)).trans (filterSteps_feed _ _ _ ?_).1
      rw [formAt_setAcc, formAt_raise, hkept]

/-! ## Writing one slot twice -/

theorem setSlot_setSlot {v w : Slot} (hv : v ≠ .empty) (hw : w ≠ .empty) (p : Pid) (s : State) :
    setSlot p v (setSlot p w s) = setSlot p v s := by
  simp only [setSlot, if_neg hv, if_neg hw, tablePut_put]

/-- A section filter with another reassembler is still no Empty slot. -/
theorem withReasm_ne_empty {v : Slot} {r₀ : Reasm} (h : v.reasm = some r₀) (r : Reasm) : v.withReasm r ≠ .empty := by
  cases v <;> simp_all [Slot.reasm, Slot.withReasm]

theorem Slot.withReasm_withReasm (v : Slot) (r r' : Reasm) : (v.withReasm r').withReasm r = v.withReasm r := by
  cases v <;> rfl

theorem setReasm_setReasm {p : Pid} {s : State} {r₀ : Reasm} (h : reasmAt s p = some r₀) (r r' : Reasm) :
    setReasm p r (setReasm p r' s) = setReasm p r s := by
  rw [setReasm, setReasm, slotAt_setSlot_same, Slot.withReasm_withReasm,
    setSlot_setSlot (withReasm_ne_empty h r) (withReasm_ne_empty h r'), setReasm]

/-! ## CONSUME -/

theorem filterSteps_continuity {p : Pid} {cc : Cc} {r : Reasm} {s : State} (h : reasmAt s p = some r) :
    FilterSteps p (formAt s p) (setReasm p { r with lastCc := some cc } s) (continuity p cc r s) := by
  unfold continuity
  split
  · have hdrop : setAcc p none (setReasm p { r with lastCc := some cc } s) =
        setReasm p { lastCc := some cc, acc := none } s := by
      rw [setAcc_spec (reasmAt_setReasm h _), setReasm_setReasm h]
    exact .head (.acc none (formAt_setReasm _ _ _ _)) (hdrop ▸ .single (.notice rfl))
  · exact .refl

theorem formAt_continuity (p : Pid) (cc : Cc) (r : Reasm) (s : State) (q : Pid) :
    formAt (continuity p cc r s) q = formAt s q := by
  unfold continuity
  split <;> simp

/-- CONSUME sets last_cc and goes on in steps of its filter (R191, R192). -/
theorem filterSteps_consume {p : Pid} {r : Reasm} {s : State} (h : reasmAt s p = some r) (pusi : BitVec 1) (cc : Cc)
    (d : Bytes) :
    FilterSteps p (formAt s p) (setReasm p { r with lastCc := some cc } s) (consume p pusi cc d s) := by
  have hcc := filterSteps_continuity (cc := cc) h
  have hform := formAt_continuity p cc r s p
  simp only [consume, h]
  split
  · split
    · exact hcc
    · exact hcc.trans (filterSteps_consumeStart _ _ hform)
  · split
    · exact hcc
    · exact hcc.trans (filterSteps_feed _ _ _ hform).1

/-! ## The filter's counter -/

/-- The filter of form `f` has `c` as its last counter; or it was replaced, and the new one is idle (R192, R203). -/
def Follows (p : Pid) (f : Form) (c : Cc) (s : State) : Prop :=
  (formAt s p = f ∧ ∃ r, reasmAt s p = some r ∧ r.lastCc = some c) ∨ (formAt s p ≠ f ∧ accAt s p = none)

theorem follows_setReasm {p : Pid} {r₀ : Reasm} {s : State} (h : reasmAt s p = some r₀) (c : Cc) (acc : Option Bytes) :
    Follows p (formAt s p) c (setReasm p { lastCc := some c, acc := acc } s) :=
  .inl ⟨formAt_setReasm _ _ _ _, _, reasmAt_setReasm h _, rfl⟩

theorem accAt_freshSlot {s : State} {p : Pid} {g : Form} (h : slotAt s p = freshSlot g) : accAt s p = none := by
  rw [accAt, reasmAt, h]
  cases g <;> rfl

theorem follows_of_step {p : Pid} {f : Form} {c : Cc} {s t : State} (h : FilterStep p f s t) (hs : Follows p f c s) :
    Follows p f c t := by
  cases h with
  | acc a hf =>
    obtain ⟨-, r, hr, hc⟩ | ⟨hother, -⟩ := hs
    · rw [setAcc_spec hr]
      exact .inl ⟨by simp [hf], _, reasmAt_setReasm hr _, hc⟩
    · exact absurd hf hother
  | notice _ => simpa only [Follows, formAt_raise, reasmAt_raise, accAt_raise] using hs
  | whole sec hf =>
    obtain hsame | ⟨g, hg, hnew⟩ := slotAt_complete_same p sec s
    · simpa only [Follows, formAt, reasmAt, accAt, hsame] using hs
    · refine .inr ⟨?_, accAt_freshSlot hnew⟩
      rw [formAt, hnew, freshSlot_form, ← hf]
      exact hg

theorem follows_of_steps {p : Pid} {f : Form} {c : Cc} {s t : State} (h : FilterSteps p f s t) (hs : Follows p f c s) :
    Follows p f c t := by
  induction h with
  | refl => exact hs
  | tail _ hstep ih => exact follows_of_step hstep ih

theorem follows_consume {p : Pid} {r : Reasm} {s : State} (h : reasmAt s p = some r) (pusi : BitVec 1) (cc : Cc)
    (d : Bytes) : Follows p (formAt s p) cc (consume p pusi cc d s) :=
  follows_of_steps (filterSteps_consume h pusi cc d) (follows_setReasm h cc r.acc)

/-! ## A Scte35 filter touches its own slot alone -/

/-- The registry, every other slot and the form of `p`'s are as before. -/
def OwnSlotOnly (p : Pid) (s t : State) : Prop :=
  formAt t p = formAt s p ∧ t.pcrreg = s.pcrreg ∧ ∀ q, q ≠ p → slotAt t q = slotAt s q

theorem OwnSlotOnly.trans {p : Pid} {s t u : State} (h₁ : OwnSlotOnly p s t) (h₂ : OwnSlotOnly p t u) :
    OwnSlotOnly p s u := by
  obtain ⟨hform, hpcr, hslot⟩ := h₁
  obtain ⟨hform', hpcr', hslot'⟩ := h₂
  exact ⟨hform'.trans hform, hpcr'.trans hpcr, fun q hq => (hslot' q hq).trans (hslot q hq)⟩

theorem ownSlotOnly_setReasm (p : Pid) (r : Reasm) (s : State) : OwnSlotOnly p s (setReasm p r s) :=
  ⟨formAt_setReasm _ _ _ _, rfl, fun _ hq => slotAt_setSlot_other hq _ _⟩

theorem ownSlotOnly_of_step {p e k : Pid} {s t : State} (h : FilterStep p (.scte35 e k) s t) : OwnSlotOnly p s t := by
  cases h with
  | acc a _ =>
    unfold setAcc
    split
    · exact ⟨rfl, rfl, fun _ _ => rfl⟩
    · exact ownSlotOnly_setReasm p _ s
  | notice _ => exact ⟨formAt_raise _ _ _, raise_pcrreg _ _, fun _ _ => slotAt_raise _ _ _⟩
  | whole sec hf =>
    obtain ⟨es, hes⟩ := complete_emits (sec := sec) fun _ => ⟨e, k, hf⟩
    rw [hes]
    exact ⟨rfl, rfl, fun _ _ => rfl⟩

theorem ownSlotOnly_of_steps {p e k : Pid} {s t : State} (h : FilterSteps p (.scte35 e k) s t) : OwnSlotOnly p s t := by
  induction h with
  | refl => exact ⟨rfl, rfl, fun _ _ => rfl⟩
  | tail _ hstep ih => exact ih.trans (ownSlotOnly_of_step hstep)

theorem ownSlotOnly_consume {p e k : Pid} {r : Reasm} {s : State} (h : reasmAt s p = some r)
    (hform : formAt s p = .scte35 e k) (pusi : BitVec 1) (cc : Cc) (d : Bytes) :
    OwnSlotOnly p s (consume p pusi cc d s) :=
  (ownSlotOnly_setReasm p _ s).trans (ownSlotOnly_of_steps (hform ▸ filterSteps_consume h pusi cc d))

/-! ## The rows and their frame -/

theorem Quiet.eq_writes {s t : State} (h : Quiet s t) :
    ∃ es, t = { s with ft := t.ft, pcrreg := t.pcrreg, events := s.events ++ es } := by
  obtain ⟨hparams, hmode, hcode, hcfg, hbuf, hlast, hhi, hnext, hstore, hpar, hbr, hresult, hinbox, es, hes⟩ := h
  refine ⟨es, ?_⟩
  rw [← hparams, ← hmode, ← hcode, ← hcfg, ← hbuf, ← hlast, ← hhi, ← hnext, ← hstore, ← hpar, ← hbr, ← hresult,
    ← hinbox, ← hes]

/-- A section handed to a filter that does not process it as a table appends events (R198, R200 to R202). -/
theorem runSection_emits {p : Pid} {sec : Bytes} {s : State}
    (h : wantedTableId (formAt s p) = some (byteAt sec 0) → ∃ e k, formAt s p = .scte35 e k) :
    ∃ es, runSection (some p) sec s = emitAll es s := by
  unfold runSection
  dsimp only
  split
  · exact ⟨[], by simp [emitAll]⟩
  split
  · exact ⟨_, raise_recoverable rfl s⟩
  · exact complete_emits h

/-- Only Scte35 filters take table_id 0xFC (R202). -/
theorem scte35_of_wantedTableId {f : Form} (h : wantedTableId f = some 0xFC#8) : ∃ e k, f = .scte35 e k := by
  cases f <;> simp_all [wantedTableId]

/-- A table_id that a filter takes has a row of its own (R202). -/
theorem namedTableId_of_wantedTableId {f : Form} {t : Byte} (h : wantedTableId f = some t) : namedTableId t = true := by
  cases f with
  | empty | null | pcrWatch => cases h
  | pat | pmt | scte35 => cases h; rfl

/-- Settles O60: a packet is `consume`, whose steps keep the counter (`follows_consume`) and, on a Scte35 filter, every
other slot (`ownSlotOnly_consume`); the two section rows end in events. -/
theorem sectionRowsCompleteWithTheirFrame : Obligations.SectionRowsCompleteWithTheirFrame := by
  intro u d s hm hd
  refine ⟨fun i hi => ?_, fun h body tid htid => ?_⟩
  · have hrow : i = routeRow (formAt s u.pid) u ∧ wantedTableId (formAt s u.pid) ≠ none := by
      obtain ⟨hform, rfl⟩ | ⟨pn, hform, rfl⟩ | ⟨e, k, hform, rfl⟩ := hi <;> simp [hform, routeRow, wantedTableId]
    obtain ⟨rfl, hwant⟩ := hrow
    obtain ⟨r, hr⟩ := exists_reasmAt_iff.mpr hwant
    refine ⟨consume u.pid u.pusi u.cc d s, ?_, (quiet_consume _ _ _ _ s).eq_writes, fun hkept => ?_, ?_⟩
    · rw [exec_routeRow hwant hd hm, if_pos rfl]
    · obtain ⟨-, hcounter⟩ | ⟨hreplaced, -⟩ := follows_consume hr u.pusi u.cc d
      · exact hcounter
      · exact absurd hkept hreplaced
    · rintro ⟨e, k, hform⟩
      exact ownSlotOnly_consume hr hform u.pusi u.cc d
  · have emits : ∀ sec, (wantedTableId (formAt s u.pid) = some (byteAt sec 0) → ∃ e k, formAt s u.pid = .scte35 e k) →
        ∃ es, inUnit (runSection (some u.pid) sec) s = .next { s with events := s.events ++ es } := by
      intro sec hsec
      obtain ⟨es, hes⟩ := runSection_emits hsec
      exact ⟨es, by rw [inUnit_live hm, hes]; rfl⟩
    have hsplice := emits (sectionBytes 0xFC#8 h body) scte35_of_wantedTableId
    have hother := emits (sectionBytes tid h body) fun hwant =>
      absurd (namedTableId_of_wantedTableId hwant) (by simp [sectionBytes, byteAt, htid])
    exact List.forall_mem_cons.mpr ⟨hsplice, List.forall_mem_singleton.mpr hother⟩

end Sys2Proof.Machine
end

section
/-! PROOFS. GATHER depends on the bytes of a section alone, not on how packets cut them (R195 to R198). -/

namespace Sys2Proof.Machine

/-- What becomes of a section of which the bytes `w` are there: the loop of FEED without its accumulator. -/
def gathered (w : Bytes) : Gather :=
  if w.length < 3 then .more w
  else if Config.maxSectionLength < (sectionLength w).toNat then .tooLong (sectionLength w)
  else if w.length < 3 + (sectionLength w).toNat then .more w
  else .whole (w.take (3 + (sectionLength w).toNat)) (w.drop (3 + (sectionLength w).toNat))

theorem gathered_header {w : Bytes} (h : w.length < 3) : gathered w = .more w := if_pos h

theorem gathered_nil : gathered [] = .more [] := rfl

theorem gathered_tooLong {w : Bytes} (h : 3 ≤ w.length) (hmax : Config.maxSectionLength < (sectionLength w).toNat) :
    gathered w = .tooLong (sectionLength w) := by
  rw [gathered, if_neg (by omega), if_pos hmax]

theorem gathered_legal {w : Bytes} (h : 3 ≤ w.length) (hmax : (sectionLength w).toNat ≤ Config.maxSectionLength) :
    gathered w = if w.length < 3 + (sectionLength w).toNat then .more w
      else .whole (w.take (3 + (sectionLength w).toNat)) (w.drop (3 + (sectionLength w).toNat)) := by
  rw [gathered, if_neg (by omega), if_neg (by omega)]

/-- The bytes of an open section are the bytes it was given. -/
theorem eq_of_gathered_more {w a : Bytes} (h : gathered w = .more a) : a = w := by
  unfold gathered at h
  split at h
  · exact (Gather.more.inj h).symm
  split at h
  · cases h
  split at h
  · exact (Gather.more.inj h).symm
  · cases h

/-- An open section of at least 3 bytes has a legal length and bytes to come (R205). -/
theorem legal_of_gathered_more {w a : Bytes} (h : gathered w = .more a) (hlen : 3 ≤ w.length) :
    (sectionLength w).toNat ≤ Config.maxSectionLength ∧ w.length < 3 + (sectionLength w).toNat := by
  by_cases hmax : Config.maxSectionLength < (sectionLength w).toNat
  · rw [gathered_tooLong hlen hmax] at h
    cases h
  rw [gathered_legal hlen (Nat.le_of_not_lt hmax)] at h
  split at h
  · next hshort => exact ⟨Nat.le_of_not_lt hmax, hshort⟩
  · cases h

theorem lengths_of_gathered_whole {w sec rest : Bytes} (h : gathered w = .whole sec rest) :
    3 ≤ w.length ∧ (sectionLength w).toNat ≤ Config.maxSectionLength ∧ 3 + (sectionLength w).toNat ≤ w.length ∧
      sec = w.take (3 + (sectionLength w).toNat) ∧ rest = w.drop (3 + (sectionLength w).toNat) := by
  unfold gathered at h
  split at h
  · cases h
  split at h
  · cases h
  split at h
  · cases h
  · cases h
    exact ⟨by omega, by omega, by omega, rfl, rfl⟩

/-- A section too long stays so with more bytes. -/
theorem gathered_append_of_tooLong {w : Bytes} {sl : BitVec 12} (h : gathered w = .tooLong sl) (x : Bytes) :
    gathered (w ++ x) = .tooLong sl := by
  unfold gathered at h
  split at h
  · cases h
  next hlen =>
  split at h
  · next hmax =>
    cases h
    have hsl := sectionLength_append (Nat.le_of_not_lt hlen) x
    rw [← hsl] at hmax ⊢
    exact gathered_tooLong (by rw [List.length_append]; omega) hmax
  · split at h <;> cases h

/-- A complete section stays so, and the bytes after it are left over. -/
theorem gathered_append_of_whole {w sec rest : Bytes} (h : gathered w = .whole sec rest) (x : Bytes) :
    gathered (w ++ x) = .whole sec (rest ++ x) := by
  obtain ⟨hlen, hmax, hfull, rfl, rfl⟩ := lengths_of_gathered_whole h
  have hsl := sectionLength_append hlen x
  have hlong : 3 ≤ (w ++ x).length := by rw [List.length_append]; omega
  rw [gathered_legal hlong (by rwa [hsl]), hsl, if_neg (by rw [List.length_append]; omega),
    List.take_append_of_le_length hfull, List.drop_append_of_le_length hfull]

/-- GATHER on an open section is `gathered` of the old bytes and the new. -/
theorem gather_eq_gathered {a : Bytes} (ha : gathered a = .more a) (d : Bytes) : gather a d = gathered (a ++ d) := by
  unfold gather
  set head := a ++ d.take (3 - a.length) with hhead
  set rest := d.drop (3 - a.length)
  have hw : a ++ d = head ++ rest := by rw [hhead, List.append_assoc, List.take_append_drop]
  have hlen : head.length = a.length + min (3 - a.length) d.length := by simp [hhead]
  have hrest : rest.length = d.length - (3 - a.length) := List.length_drop
  dsimp only
  rw [hw]
  by_cases hshort : head.length < 3
  · have hnil : rest = [] := List.length_eq_zero_iff.mp (by omega)
    rw [if_pos hshort, hnil, List.append_nil, gathered_header hshort]
  have hthree : 3 ≤ head.length := Nat.le_of_not_lt hshort
  have hsl := sectionLength_append hthree rest
  have hlong : 3 ≤ (head ++ rest).length := by rw [List.length_append]; omega
  have hold : 3 ≤ a.length → head = a := fun h3 => by simp [hhead, Nat.sub_eq_zero_of_le h3]
  rw [if_neg hshort]
  by_cases hmax : Config.maxSectionLength < (sectionLength head).toNat
  · have hnew : a.length < 3 := by
      by_contra h3
      have hlegal := (legal_of_gathered_more ha (Nat.le_of_not_lt h3)).1
      rw [← hold (Nat.le_of_not_lt h3)] at hlegal
      omega
    rw [if_pos ⟨hnew, hmax⟩, gathered_tooLong hlong (by rwa [hsl]), hsl]
  rw [if_neg (fun h => hmax h.2), gathered_legal hlong (by rw [hsl]; omega), hsl]
  have hroom : head.length ≤ 3 + (sectionLength head).toNat := by
    by_cases h3 : 3 ≤ a.length
    · have hopen := (legal_of_gathered_more ha h3).2
      rw [← hold h3] at hopen
      omega
    · omega
  have htake : (head ++ rest).take (3 + (sectionLength head).toNat) =
      head ++ rest.take (3 + (sectionLength head).toNat - head.length) := by
    rw [List.take_append, List.take_of_length_le hroom]
  have hdrop : (head ++ rest).drop (3 + (sectionLength head).toNat) =
      rest.drop (3 + (sectionLength head).toNat - head.length) := by
    rw [List.drop_append, List.drop_eq_nil_of_le hroom, List.nil_append]
  rw [← htake, ← hdrop, List.length_take]
  by_cases hfull : (head ++ rest).length < 3 + (sectionLength head).toNat
  · rw [if_neg (by omega), if_pos hfull, List.take_of_length_le hfull.le]
  · rw [if_pos (by omega), if_neg hfull]

/-- A sound partial section is open (R205). -/
theorem gathered_of_reasm_ok {r : Reasm} {a : Bytes} (hr : r.ok = true) (ha : r.acc = some a) : gathered a = .more a := by
  simp only [Reasm.ok, ha, Bool.and_eq_true, Bool.or_eq_true, decide_eq_true_eq] at hr
  obtain ⟨-, hshort | ⟨hmax, hopen⟩⟩ := hr
  · exact gathered_header (by omega)
  · by_cases hlen : a.length < 3
    · exact gathered_header hlen
    · rw [gathered_legal (Nat.le_of_not_lt hlen) hmax, if_pos hopen]

/-- Bytes that do not run past the end of their section leave nothing over. -/
theorem rest_eq_nil_of_fits {w sec rest : Bytes} (hfits : w.length < 3 ∨ w.length ≤ 3 + (sectionLength w).toNat)
    (h : gathered w = .whole sec rest) : rest = [] := by
  obtain ⟨hlen, -, -, -, rfl⟩ := lengths_of_gathered_whole h
  exact List.drop_eq_nil_of_le (hfits.resolve_left (by omega))

end Sys2Proof.Machine
end

section
/-! PROOFS. A section cut over two packets (R191 to R204): FEED on the whole payload is FEED on its first part and then on
its second, and the second packet's counter makes no difference but to last_cc. -/

namespace Sys2Proof.Machine

/-! ## One pass on an open section -/

/-- What becomes of the state with what becomes of the partial section; bytes left over are not looked at. -/
def settle (p : Pid) (g : Gather) (s : State) : State :=
  match g with
  | .more a => setAcc p (some a) s
  | .tooLong sl => setAcc p none (raise (.x05 (some p) sl) s)
  | .whole sec _ => complete p sec (setAcc p none s)

theorem accAt_setAcc_none (p : Pid) (s : State) : accAt (setAcc p none s) p = none := by
  cases hr : reasmAt s p with
  | none => simp [setAcc, accAt, hr]
  | some r => exact accAt_setAcc hr none

/-- A partial section that `setAcc` leaves is the one it wrote. -/
theorem accAt_setAcc_some {p : Pid} {s : State} {a w : Bytes} (h : accAt (setAcc p (some w) s) p = some a) : w = a := by
  cases hr : reasmAt s p with
  | none => simp [setAcc, accAt, hr] at h
  | some r => exact Option.some.inj ((accAt_setAcc hr _).symm.trans h)

/-- COMPLETE leaves an idle filter idle, replaced or not. -/
theorem accAt_complete {p : Pid} {s : State} (h : accAt s p = none) (sec : Bytes) : accAt (complete p sec s) p = none := by
  obtain hsame | ⟨g, -, hnew⟩ := slotAt_complete_same p sec s
  · rwa [accAt, reasmAt, hsame]
  · exact accAt_freshSlot hnew

theorem exists_reasmAt_of_accAt {p : Pid} {s : State} {a : Bytes} (h : accAt s p = some a) :
    ∃ r, reasmAt s p = some r := by
  obtain ⟨r, hr, -⟩ := Option.bind_eq_some_iff.mp h
  exact ⟨r, hr⟩

/-- A section that ended leaves the filter idle. -/
theorem accAt_settle {p : Pid} {g : Gather} (h : ∀ a, g ≠ .more a) (s : State) : accAt (settle p g s) p = none := by
  cases g with
  | more a => exact absurd rfl (h a)
  | tooLong sl => exact accAt_setAcc_none p _
  | whole sec rest => exact accAt_complete (accAt_setAcc_none p s) sec

/-- FEED ignores bytes that continue nothing (R195). -/
theorem feed_idle {p : Pid} {s : State} (h : accAt s p = none) (n : Nat) (f : Form) (d : Bytes) :
    (feed n p f d false s).1 = s := by
  cases n with
  | zero => rfl
  | succ n =>
    cases d with
    | nil => rfl
    | cons b rest => simp [feed, h, openSection]

/-- FEED on an open section that may not be followed by another is one pass. -/
theorem feed_open {p : Pid} {s : State} {a d : Bytes} (hacc : accAt s p = some a) (hd : d ≠ []) (f : Form) :
    (feed d.length p f d false s).1 = settle p (gather a d) s := by
  obtain ⟨b, rest, rfl⟩ := List.exists_cons_of_ne_nil hd
  simp only [feed, List.length_cons, hacc, openSection]
  cases hg : gather a (b :: rest) with
  | more a' => rfl
  | tooLong sl => rfl
  | whole sec junk =>
    simp only [settle]
    split
    · rfl
    · exact feed_idle (accAt_complete (accAt_setAcc_none p s) sec) _ f junk

theorem setAcc_setAcc (p : Pid) (acc acc' : Option Bytes) (s : State) :
    setAcc p acc (setAcc p acc' s) = setAcc p acc s := by
  cases hr : reasmAt s p with
  | none => simp [setAcc, hr]
  | some r => rw [setAcc_spec hr acc', setAcc_spec (reasmAt_setReasm hr _), setReasm_setReasm hr, setAcc_spec hr]

theorem raise_setAcc {x : Exn} (hx : x.fatalCode = none) (p : Pid) (acc : Option Bytes) (s : State) :
    raise x (setAcc p acc s) = setAcc p acc (raise x s) := by
  simp only [raise_recoverable hx, setAcc, reasmAt_emit]
  cases reasmAt s p <;> rfl

/-- One pass overwrites the partial section it started from. -/
theorem settle_setAcc (p : Pid) (g : Gather) (acc : Option Bytes) (s : State) :
    settle p g (setAcc p acc s) = settle p g s := by
  cases g with
  | more a => exact setAcc_setAcc p _ acc s
  | tooLong sl => rw [settle, raise_setAcc rfl, setAcc_setAcc, settle]
  | whole sec rest => rw [settle, setAcc_setAcc, settle]

/-! ## FEED cut in two -/

/-- Bytes that continue the open section, or nothing: given at once or in two calls, they come to the same. -/
theorem feed_append {p : Pid} {f : Form} {s : State} (hopen : ∀ a, accAt s p = some a → gathered a = .more a)
    (d₁ d₂ : Bytes) :
    (feed (d₁ ++ d₂).length p f (d₁ ++ d₂) false s).1 =
      (feed d₂.length p f d₂ false (feed d₁.length p f d₁ false s).1).1 := by
  cases hacc : accAt s p with
  | none => rw [feed_idle hacc, feed_idle hacc, feed_idle hacc]
  | some a =>
    by_cases h₁ : d₁ = []
    · subst h₁; rfl
    by_cases h₂ : d₂ = []
    · subst h₂; rw [List.append_nil]; rfl
    have ha := hopen a hacc
    rw [feed_open hacc (by simp [h₁]), feed_open hacc h₁, gather_eq_gathered ha, gather_eq_gathered ha, ← List.append_assoc]
    obtain ⟨r, hr⟩ := exists_reasmAt_of_accAt hacc
    cases hg : gathered (a ++ d₁) with
    | more a' =>
      obtain rfl := eq_of_gathered_more hg
      rw [settle, feed_open (accAt_setAcc hr _) h₂, settle_setAcc, gather_eq_gathered hg]
    | tooLong sl =>
      rw [feed_idle (accAt_settle (by simp) s), gathered_append_of_tooLong hg]
    | whole sec rest =>
      rw [feed_idle (accAt_settle (by simp) s), gathered_append_of_whole hg]
      rfl

/-- FEED where a section starts and leaves nothing over is one pass. -/
theorem feed_begin {p : Pid} {s : State} {b : Byte} {rest : Bytes} (hacc : accAt s p = none) (hb : b ≠ 0xFF#8)
    (hnil : ∀ sec junk, gathered (b :: rest) = .whole sec junk → junk = []) (n : Nat) (f : Form) :
    (feed (n + 1) p f (b :: rest) true s).1 = settle p (gathered (b :: rest)) s := by
  have hstart : openSection none true b = some [] := by simp [openSection, hb]
  simp only [feed, hacc, hstart, gather_eq_gathered gathered_nil, List.nil_append]
  cases hgathered : gathered (b :: rest) with
  | more a => rfl
  | tooLong sl => rfl
  | whole sec junk =>
    obtain rfl := hnil sec junk hgathered
    simp only [settle]
    split
    · rfl
    · cases n <;> rfl

/-- FEED where a whole section starts completes it and goes on behind it, unless the filter was replaced (R195, R203). -/
theorem feed_begin_whole {p : Pid} {f : Form} {s : State} {b : Byte} {rest sec junk : Bytes} (hacc : accAt s p = none)
    (hb : b ≠ 0xFF#8) (hgathered : gathered (b :: rest) = .whole sec junk) (n : Nat) :
    (feed (n + 1) p f (b :: rest) true s).1 =
      if formAt (complete p sec (setAcc p none s)) p = f then (feed n p f junk true (complete p sec (setAcc p none s))).1
      else complete p sec (setAcc p none s) := by
  have hstart : openSection none true b = some [] := by simp [openSection, hb]
  simp only [feed, hacc, hstart, gather_eq_gathered gathered_nil, List.nil_append, hgathered]
  by_cases hform : formAt (complete p sec (setAcc p none s)) p = f
  · rw [if_neg (not_not.mpr hform), if_pos hform]
  · rw [if_pos hform, if_neg hform]

/-- Where sections may start, and the last one is left open: the bytes that continue it may come in a second call. -/
theorem feed_append_of_left_open {p : Pid} {f : Form} {a d₂ : Bytes}
    (hfits : (a ++ d₂).length < 3 ∨ (a ++ d₂).length ≤ 3 + (sectionLength (a ++ d₂)).toNat) {n m : Nat} {d₁ : Bytes}
    {s : State} (hacc : accAt s p = none) (hn : d₁.length ≤ n) (hm : (d₁ ++ d₂).length ≤ m)
    (hleft : accAt (feed n p f d₁ true s).1 p = some a) :
    (feed m p f (d₁ ++ d₂) true s).1 = (feed d₂.length p f d₂ false (feed n p f d₁ true s).1).1 := by
  have notIdle : ∀ {t : State}, accAt t p = some a → accAt t p = none → False := fun h h' => by simp [h] at h'
  induction n generalizing d₁ m s with
  | zero => exact (notIdle hleft hacc).elim
  | succ n ih =>
    cases d₁ with
    | nil => exact (notIdle hleft hacc).elim
    | cons b rest =>
    obtain ⟨m, rfl⟩ : ∃ k, m = k + 1 := ⟨m - 1, by simp at hm; omega⟩
    by_cases hb : b = 0xFF#8
    · exact (notIdle hleft (by simp [feed, hacc, openSection, hb])).elim
    cases hgathered : gathered (b :: rest) with
    | more w =>
      obtain rfl := eq_of_gathered_more hgathered
      have hfirst : (feed (n + 1) p f (b :: rest) true s).1 = setAcc p (some (b :: rest)) s := by
        rw [feed_begin hacc hb (by simp [hgathered]), hgathered, settle]
      rw [hfirst] at hleft ⊢
      obtain rfl := accAt_setAcc_some hleft
      rw [List.cons_append, feed_begin (rest := rest ++ d₂) hacc hb fun sec junk => rest_eq_nil_of_fits hfits]
      by_cases h₂ : d₂ = []
      · subst h₂
        rw [List.append_nil, hgathered]
        rfl
      · rw [feed_open hleft h₂, settle_setAcc, gather_eq_gathered hgathered, List.cons_append]
    | tooLong sl =>
      rw [feed_begin hacc hb (by simp [hgathered]), hgathered] at hleft
      exact (notIdle hleft (accAt_settle (by simp) s)).elim
    | whole sec junk =>
      have hidle := accAt_complete (accAt_setAcc_none p s) sec
      have hgathered₂ : gathered (b :: (rest ++ d₂)) = .whole sec (junk ++ d₂) := gathered_append_of_whole hgathered d₂
      rw [List.cons_append, feed_begin_whole hacc hb hgathered₂]
      rw [feed_begin_whole hacc hb hgathered] at hleft ⊢
      by_cases hform : formAt (complete p sec (setAcc p none s)) p = f
      · rw [if_pos hform] at hleft
        rw [if_pos hform, if_pos hform]
        obtain ⟨hlen, -, -, -, rfl⟩ := lengths_of_gathered_whole hgathered
        refine ih hidle ?_ ?_ hleft
        · simp at hn ⊢; omega
        · simp at hm ⊢; omega
      · rw [if_neg hform] at hleft
        exact (notIdle hleft hidle).elim

/-- The same for a packet that starts sections: the second payload continues what the first left open (R191, R194). -/
theorem consumeStart_append {p : Pid} {f : Form} {c : Cc} {ptr : Byte} {d₁ d₂ a : Bytes} {s : State}
    (hs : Follows p f c s) (hf : formAt s p = f)
    (hfits : (a ++ d₂).length < 3 ∨ (a ++ d₂).length ≤ 3 + (sectionLength (a ++ d₂)).toNat)
    (hleft : accAt (consumeStart p f ptr d₁ s) p = some a) :
    consumeStart p f ptr (d₁ ++ d₂) s = (feed d₂.length p f d₂ false (consumeStart p f ptr d₁ s)).1 := by
  by_cases hptr : d₁.length < ptr.toNat
  · rw [consumeStart, if_pos hptr, accAt_setAcc_none] at hleft
    cases hleft
  have hinside : ptr.toNat ≤ d₁.length := Nat.le_of_not_lt hptr
  have hptr₂ : ¬ (d₁ ++ d₂).length < ptr.toNat := by rw [List.length_append]; omega
  unfold consumeStart at hleft ⊢
  simp only [if_neg hptr, if_neg hptr₂, List.take_append_of_le_length hinside,
    List.drop_append_of_le_length hinside] at hleft ⊢
  by_cases hacc : accAt s p = none
  · rw [if_pos hacc] at hleft
    rw [if_pos hacc, if_pos hacc]
    exact feed_append_of_left_open hfits hacc le_rfl le_rfl hleft
  rw [if_neg hacc] at hleft
  rw [if_neg hacc, if_neg hacc]
  obtain ⟨hsteps, hreplaced⟩ := filterSteps_feed (d₁.take ptr.toNat).length (d₁.take ptr.toNat) false hf
  have htail := follows_of_steps hsteps hs
  generalize feed (d₁.take ptr.toNat).length p f (d₁.take ptr.toNat) false s = q at hleft hreplaced htail ⊢
  obtain ⟨s₁, replaced⟩ := q
  cases replaced with
  | true =>
    obtain ⟨hsame, -⟩ | ⟨-, hidle⟩ := htail
    · cases hreplaced.mpr hsame
    · simp [hidle] at hleft
  | false =>
    refine feed_append_of_left_open hfits ?_ le_rfl le_rfl hleft
    split
    · assumption
    · exact accAt_setAcc_none p _

end Sys2Proof.Machine
end

section
/-! PROOFS. A packet's counter makes no difference to what its payload does but in last_cc (R192), so the second packet of a
cut section does what the rest of the whole payload does. -/

namespace Sys2Proof.Machine

/-! ## Writes to two slots -/

theorem tablePut_comm {α : Type} {j k : Nat} (h : j < k) (v w : α) (t : List (Nat × α)) :
    tablePut j v (tablePut k w t) = tablePut k w (tablePut j v t) := by
  have hkj : ¬ k < j := by omega
  have hne : k ≠ j := by omega
  induction t with
  | nil => simp [tablePut, h, hkj, hne]
  | cons e rest ih =>
    obtain ⟨i, x⟩ := e
    by_cases hj : j < i
    · by_cases hk : k < i
      · simp [tablePut, hj, hk, h, hkj, hne]
      · by_cases hki : k = i
        · subst hki; simp [tablePut, h, hkj, hne]
        · simp [tablePut, hj, hk, hki, hkj, hne]
    · have hk : ¬ k < i := by omega
      by_cases hji : j = i
      · subst hji; simp [tablePut, hkj, hne]
      · have hki : k ≠ i := by omega
        simp [tablePut, hj, hk, hji, hki, ih]

theorem setSlot_comm {p q : Pid} (hpq : p ≠ q) {v w : Slot} (hv : v ≠ .empty) (hw : w ≠ .empty) (s : State) :
    setSlot p v (setSlot q w s) = setSlot q w (setSlot p v s) := by
  have hne : p.toNat ≠ q.toNat := fun h => hpq (BitVec.eq_of_toNat_eq h)
  simp only [setSlot, if_neg hv, if_neg hw]
  obtain hlt | hlt := Nat.lt_or_gt_of_ne hne
  · rw [tablePut_comm hlt]
  · rw [tablePut_comm hlt]

theorem freshSlot_ne_empty {g : Form} (h : g ≠ .empty) : freshSlot g ≠ .empty := by
  cases g <;> simp_all [freshSlot]

/-! ## Another last counter -/

/-- The state with another last counter on `p`, where `p` is a section filter. -/
def setCc (p : Pid) (c : Cc) (s : State) : State :=
  match reasmAt s p with
  | none => s
  | some r => setReasm p { r with lastCc := some c } s

/-- The state with another last counter on `p`, unless its filter of form `f` was replaced. -/
def recount (p : Pid) (f : Form) (c : Cc) (s : State) : State := if formAt s p = f then setCc p c s else s

theorem setCc_spec {p : Pid} {r : Reasm} {s : State} (h : reasmAt s p = some r) (c : Cc) :
    setCc p c s = setReasm p { r with lastCc := some c } s := by
  simp [setCc, h]

theorem recount_kept {p : Pid} {f : Form} {s : State} (h : formAt s p = f) (c : Cc) : recount p f c s = setCc p c s :=
  if_pos h

theorem recount_replaced {p : Pid} {f : Form} {s : State} (h : formAt s p ≠ f) (c : Cc) : recount p f c s = s := if_neg h

theorem formAt_setCc (p : Pid) (c : Cc) (s : State) (q : Pid) : formAt (setCc p c s) q = formAt s q := by
  unfold setCc
  split <;> simp

theorem accAt_setCc (p : Pid) (c : Cc) (s : State) : accAt (setCc p c s) p = accAt s p := by
  cases hr : reasmAt s p with
  | none => rw [setCc, hr]
  | some r => rw [setCc_spec hr, accAt_eq (reasmAt_setReasm hr _), accAt_eq hr]

theorem pcrAt_setCc (p : Pid) (c : Cc) (s : State) (k : Pid) : pcrAt (setCc p c s) k = pcrAt s k := by
  unfold setCc
  split <;> simp

theorem setCc_emitAll (p : Pid) (c : Cc) (es : List Event) (s : State) :
    setCc p c (emitAll es s) = emitAll es (setCc p c s) := by
  unfold setCc
  rw [reasmAt_emitAll]
  split <;> rfl

theorem setCc_raise {x : Exn} (hx : x.fatalCode = none) (p : Pid) (c : Cc) (s : State) :
    setCc p c (raise x s) = raise x (setCc p c s) := by
  rw [raise_recoverable hx, raise_recoverable hx]
  exact setCc_emitAll p c [.exn x] s

theorem setCc_setPcr (p : Pid) (c : Cc) (k : Pid) (e : PcrEntry) (s : State) :
    setCc p c (setPcr k e s) = setPcr k e (setCc p c s) := by
  unfold setCc
  rw [reasmAt_setPcr]
  split <;> rfl

theorem setCc_setAcc (p : Pid) (c : Cc) (acc : Option Bytes) (s : State) :
    setCc p c (setAcc p acc s) = setAcc p acc (setCc p c s) := by
  cases hr : reasmAt s p with
  | none => simp [setCc, setAcc, hr]
  | some r =>
    rw [setAcc_spec hr, setCc_spec (reasmAt_setReasm hr _), setReasm_setReasm hr, setCc_spec hr,
      setAcc_spec (reasmAt_setReasm hr _), setReasm_setReasm hr]

/-- A write to the slot itself overwrites the counter. -/
theorem setSlot_setCc_same {p : Pid} {v : Slot} (hv : v ≠ .empty) (c : Cc) (s : State) :
    setSlot p v (setCc p c s) = setSlot p v s := by
  cases hr : reasmAt s p with
  | none => rw [setCc, hr]
  | some r => rw [setCc_spec hr, setReasm, setSlot_setSlot hv (withReasm_ne_empty hr _)]

theorem setSlot_setCc_other {p q : Pid} (hq : q ≠ p) {v : Slot} (hv : v ≠ .empty) (c : Cc) (s : State) :
    setSlot q v (setCc p c s) = setCc p c (setSlot q v s) := by
  have hslot : slotAt (setSlot q v s) p = slotAt s p := slotAt_setSlot_other hq.symm v s
  have hreasm : reasmAt (setSlot q v s) p = reasmAt s p := by rw [reasmAt, hslot, reasmAt]
  cases hr : reasmAt s p with
  | none => rw [setCc, setCc, hreasm, hr]
  | some r =>
    rw [setCc_spec hr, setCc_spec (hreasm.trans hr), setReasm, setReasm, hslot,
      setSlot_comm hq hv (withReasm_ne_empty hr _)]

/-! ## What a packet does under another last counter -/

/-- Classifications that never name the filter's form commute with its counter. -/
theorem recount_classify {p q : Pid} {f g : Form} (hg : g ≠ .empty) (hgf : g ≠ f) (c : Cc) (s : State) :
    classify q g (recount p f c s) = recount p f c (classify q g s) := by
  by_cases hf : formAt s p = f
  · rw [recount_kept hf]
    by_cases hq : q = p
    · subst hq
      have hnew : ¬ (f = g ∧ g ≠ .empty) := fun h => hgf h.1.symm
      rw [classify, formAt_setCc, hf, if_neg hnew, setSlot_setCc_same (freshSlot_ne_empty hg),
        recount_replaced (by rw [formAt_classify_same]; exact hgf), classify, hf, if_neg hnew]
    · have hkept : formAt (classify q g s) p = f := by rw [formAt, slotAt_classify_other (Ne.symm hq)]; exact hf
      rw [recount_kept hkept]
      unfold classify
      rw [formAt_setCc]
      split
      · rfl
      · exact setSlot_setCc_other hq (freshSlot_ne_empty hg) c s
  · rw [recount_replaced hf]
    refine (recount_replaced ?_ c).symm
    by_cases hq : q = p
    · subst hq
      rw [formAt_classify_same]
      exact hgf
    · rw [formAt, slotAt_classify_other (Ne.symm hq)]
      exact hf

theorem recount_classifyAll {p : Pid} {f : Form} {cs : List (Pid × Form)} (h : ∀ e ∈ cs, e.2 ≠ .empty ∧ e.2 ≠ f) (c : Cc)
    (s : State) : classifyAll cs (recount p f c s) = recount p f c (classifyAll cs s) := by
  induction cs generalizing s with
  | nil => rfl
  | cons e rest ih =>
    obtain ⟨⟨hne, hother⟩, hrest⟩ := List.forall_mem_cons.mp h
    show classifyAll rest (classify e.1 e.2 (recount p f c s)) = recount p f c (classifyAll rest (classify e.1 e.2 s))
    rw [recount_classify hne hother, ih hrest]

theorem withEntry_setCc {p : Pid} (c : Cc) (s : State) : withEntry p (setCc p c s) = setCc p c (withEntry p s) := by
  unfold withEntry
  rw [pcrAt_setCc]
  split
  · exact (setCc_setPcr p c p _ s).symm
  · rfl

/-- COMPLETE reads the filter's form and never its counter (R200). -/
theorem complete_recount {p : Pid} {f : Form} {s : State} (hf : formAt s p = f) (c : Cc) (sec : Bytes) :
    complete p sec (recount p f c s) = recount p f c (complete p sec s) := by
  have hraise : ∀ {x : Exn}, x.fatalCode = none → raise x (setCc p c s) = recount p f c (raise x s) := fun hx => by
    rw [recount_kept ((formAt_raise _ s p).trans hf), setCc_raise hx]
  rw [recount_kept hf]
  unfold complete
  rw [formAt_setCc, hf]
  split
  · rw [recount_kept hf]
  split
  · exact hraise rfl
  split
  · exact hraise rfl
  cases f with
  | empty | null | pcrWatch => exact (recount_kept hf c).symm
  | scte35 e k =>
    simp only [processSection, pcrAt_setCc]
    rw [recount_kept ((formAt_emitAll _ s p).trans hf), setCc_emitAll]
  | pat =>
    simp only [processSection, patSection]
    split
    · exact hraise rfl
    · rw [← recount_kept hf, applyPat_eq, applyPat_eq]
      exact recount_classifyAll (List.forall_mem_map.mpr fun e _ => by simp) c s
  | pmt pn =>
    simp only [processSection, pmtSection]
    split
    · exact hraise rfl
    · exact hraise rfl
    · have hentry : formAt (withEntry p s) p = .pmt pn := by rw [formAt, slotAt_withEntry]; exact hf
      rw [applyPmt_eq, applyPmt_eq, withEntry_setCc, ← recount_kept hentry]
      exact recount_classifyAll
        (List.forall_mem_map.mpr fun e _ => ⟨streamForm_ne_empty p e, streamForm_ne_pmt p e pn⟩) c _

theorem settle_recount {p : Pid} {f : Form} {s : State} (hf : formAt s p = f) (c : Cc) (g : Gather) :
    settle p g (recount p f c s) = recount p f c (settle p g s) := by
  have hidle : formAt (setAcc p none s) p = f := (formAt_setAcc p none s p).trans hf
  rw [recount_kept hf]
  cases g with
  | more a => rw [settle, settle, recount_kept ((formAt_setAcc _ _ _ _).trans hf), setCc_setAcc]
  | tooLong sl =>
    rw [settle, settle, recount_kept (by rw [formAt_setAcc, formAt_raise, hf]), setCc_setAcc, setCc_raise rfl]
  | whole sec rest => rw [settle, settle, ← complete_recount hidle, recount_kept hidle, setCc_setAcc]

theorem feed_recount {p : Pid} {f : Form} {s : State} (hf : formAt s p = f) (c : Cc) (d : Bytes) :
    (feed d.length p f d false (recount p f c s)).1 = recount p f c (feed d.length p f d false s).1 := by
  have hsame : accAt (recount p f c s) p = accAt s p := by rw [recount_kept hf, accAt_setCc]
  cases hacc : accAt s p with
  | none => rw [feed_idle (hsame.trans hacc), feed_idle hacc]
  | some a =>
    by_cases hd : d = []
    · subst hd; rfl
    · rw [feed_open (hsame.trans hacc) hd, feed_open hacc hd, settle_recount hf]

/-! ## Two packets -/

/-- A PUSI 0 packet is its continuity step and FEED (R191). -/
theorem consume_continuing {p : Pid} {r : Reasm} {s : State} (hr : reasmAt s p = some r) (cc : Cc) (d : Bytes) :
    consume p 0#1 cc d s = (feed d.length p (formAt s p) d false (continuity p cc r s)).1 := by
  have hpusi : ¬ (0#1 = 1#1) := by decide
  simp only [consume, hr, if_neg hpusi]
  split
  · next hidle => rw [feed_idle hidle]
  · rfl

/-- A PUSI 0 packet, run by the row of the form that the filter had, with the counter that comes next: FEED, and the
counter where the filter stayed. -/
theorem exec_continuing {p : Pid} {f : Form} (hwant : wantedTableId f ≠ none) {c : Cc} {s : State} (hm : s.mode ≠ .fatal)
    (hs : Follows p f c s) (d : Bytes) :
    exec (routeRow f { pid := p, pusi := 0#1, cc := c + 1#4, pcr := none, payload := some d }) s =
      .next (recount p f (c + 1#4) (feed d.length p f d false s).1) := by
  rw [exec_routeRow hwant rfl hm]
  obtain ⟨hf, r, hr, hc⟩ | ⟨hother, hidle⟩ := hs
  · have hcc : continuity p (c + 1#4) r s = recount p f (c + 1#4) s := by
      have hnogap : ¬ (ccGap r.lastCc (c + 1#4) = true ∧ r.acc ≠ none) := by simp [ccGap, hc]
      rw [continuity, if_neg hnogap, recount_kept hf, setCc_spec hr]
    rw [if_pos hf, consume_continuing hr, hcc, hf, feed_recount hf]
  · rw [if_neg hother, feed_idle hidle, recount_replaced hother]

/-- The whole payload in one packet is the first part and then FEED of the second. -/
theorem consume_continuing_append {p : Pid} {cc : Cc} {d₁ d₂ : Bytes} {r : Reasm} {s : State}
    (hr : reasmAt s p = some r) (hok : r.ok = true) :
    consume p 0#1 cc (d₁ ++ d₂) s = (feed d₂.length p (formAt s p) d₂ false (consume p 0#1 cc d₁ s)).1 := by
  have hopen : ∀ a, accAt (continuity p cc r s) p = some a → gathered a = .more a := by
    intro a ha
    unfold continuity at ha
    split at ha
    · rw [accAt_raise, accAt_eq (reasmAt_setReasm hr _)] at ha
      cases ha
    · rw [accAt_eq (reasmAt_setReasm hr _)] at ha
      exact gathered_of_reasm_ok hok ha
  rw [consume_continuing hr, consume_continuing hr, feed_append hopen]

/-- So with PUSI 1, where the first part has its pointer_field and leaves a section open, and the second does not run past
the end of that section. -/
theorem consume_starting_append {p : Pid} {cc : Cc} {d₁ d₂ a : Bytes} {r : Reasm} {s : State}
    (hr : reasmAt s p = some r) (hd₁ : d₁ ≠ [])
    (hfits : (a ++ d₂).length < 3 ∨ (a ++ d₂).length ≤ 3 + (sectionLength (a ++ d₂)).toNat)
    (hleft : accAt (consume p 1#1 cc d₁ s) p = some a) :
    consume p 1#1 cc (d₁ ++ d₂) s = (feed d₂.length p (formAt s p) d₂ false (consume p 1#1 cc d₁ s)).1 := by
  obtain ⟨ptr, rest, rfl⟩ := List.exists_cons_of_ne_nil hd₁
  have hcc : Follows p (formAt s p) cc (continuity p cc r s) :=
    follows_of_steps (filterSteps_continuity hr) (follows_setReasm hr cc r.acc)
  simp only [consume, hr, List.cons_append, if_true] at hleft ⊢
  exact consumeStart_append hcc (formAt_continuity p cc r s p) hfits hleft

/-- Settles O31: the whole payload is the first packet and then FEED (`consume_continuing_append`,
`consume_starting_append`), and the second packet is that FEED with its own counter (`exec_continuing`). -/
theorem sectionSplitOverPacketsIsWhole : Obligations.SectionSplitOverPacketsIsWhole := by
  intro pid pusi cc d₁ d₂ r s hm hr hok packetOf
  have hwant : wantedTableId (formAt s pid) ≠ none := exists_reasmAt_iff.mp ⟨r, hr⟩
  have hrow : ∀ d, packetOf pusi cc d s = .next (consume pid pusi cc d s) := fun d =>
    (exec_routeRow hwant rfl hm).trans (congrArg _ (if_pos rfl))
  refine ⟨_, _, hrow d₁, hrow (d₁ ++ d₂), fun hcut => ?_⟩
  have hwhole : consume pid pusi cc (d₁ ++ d₂) s =
      (feed d₂.length pid (formAt s pid) d₂ false (consume pid pusi cc d₁ s)).1 := by
    obtain rfl | rfl : pusi = 0#1 ∨ pusi = 1#1 := BitVec.eq_zero_or_eq_one pusi
    · exact consume_continuing_append hr hok
    · obtain hpusi | ⟨r₁, a, hd₁, hr₁, ha, hfits⟩ := hcut
      · cases hpusi
      · exact consume_starting_append hr hd₁ hfits ((accAt_eq hr₁).trans ha)
  have hlive : (consume pid pusi cc d₁ s).mode ≠ .fatal := by rwa [(quiet_consume pid pusi cc d₁ s).mode]
  have hsecond := exec_continuing hwant hlive (follows_consume hr pusi cc d₁) d₂
  rw [← hwhole] at hsecond
  refine ⟨fun hkept => ?_, fun hreplaced => ?_⟩
  · obtain ⟨r', hr'⟩ := exists_reasmAt_iff.mpr (hkept ▸ hwant)
    refine ⟨r', hr', hsecond.trans ?_⟩
    rw [recount_kept hkept, setCc_spec hr']
  · rw [recount_replaced hreplaced] at hsecond
    exact hsecond

end Sys2Proof.Machine
end

section
/-! PROOFS. The words of the layouts and their fields (R91 to R118): each word is its fields one after another, most
significant first, and each field is read back from it. -/

namespace Sys2Proof

/-! ## Fields of a word as numbers -/

/-- A field put before others counts as many times as they have values. -/
theorem toNat_append_mul {m n : Nat} (x : BitVec m) (y : BitVec n) : (x ++ y).toNat = x.toNat * 2 ^ n + y.toNat := by
  rw [BitVec.toNat_append, ← Nat.shiftLeft_add_eq_or_of_lt y.isLt, Nat.shiftLeft_eq]

/-- A field read out of a word is its digits at that place. -/
theorem toNat_extractLsb'_digits {n : Nat} (start len : Nat) (w : BitVec n) :
    (w.extractLsb' start len).toNat = w.toNat / 2 ^ start % 2 ^ len := by
  rw [BitVec.extractLsb'_toNat, Nat.shiftRight_eq_div_pow]

/-! ## The bytes of a word and the word of the bytes -/

theorem be16_append (a b : Byte) : be16 (a ++ b) = [a, b] := by
  simp only [be16, List.cons.injEq, and_true]
  exact ⟨BitVec.extractLsb'_append_eq_left, BitVec.extractLsb'_append_eq_right⟩

theorem be24_append (a b c : Byte) : be24 (a ++ b ++ c) = [a, b, c] := by
  simp only [be24, List.cons.injEq, and_true]
  refine ⟨?_, ?_, ?_⟩ <;>
    exact BitVec.eq_of_toNat_eq (by simp only [toNat_append_mul, toNat_extractLsb'_digits]; omega)

theorem be32_append (a b c d : Byte) : be32 (a ++ b ++ c ++ d) = [a, b, c, d] := by
  simp only [be32, List.cons.injEq, and_true]
  refine ⟨?_, ?_, ?_, ?_⟩ <;>
    exact BitVec.eq_of_toNat_eq (by simp only [toNat_append_mul, toNat_extractLsb'_digits]; omega)

theorem be40_append (a b c d e : Byte) : be40 (a ++ b ++ c ++ d ++ e) = [a, b, c, d, e] := by
  simp only [be40, List.cons.injEq, and_true]
  refine ⟨?_, ?_, ?_, ?_, ?_⟩ <;>
    exact BitVec.eq_of_toNat_eq (by simp only [toNat_append_mul, toNat_extractLsb'_digits]; omega)

theorem be24_word (w : BitVec 24) : w.extractLsb' 16 8 ++ w.extractLsb' 8 8 ++ w.extractLsb' 0 8 = w :=
  BitVec.eq_of_toNat_eq (by simp only [toNat_append_mul, toNat_extractLsb'_digits]; omega)

theorem be32_word (w : BitVec 32) :
    w.extractLsb' 24 8 ++ w.extractLsb' 16 8 ++ w.extractLsb' 8 8 ++ w.extractLsb' 0 8 = w :=
  BitVec.eq_of_toNat_eq (by simp only [toNat_append_mul, toNat_extractLsb'_digits]; omega)

theorem be40_word (w : BitVec 40) :
    w.extractLsb' 32 8 ++ w.extractLsb' 24 8 ++ w.extractLsb' 16 8 ++ w.extractLsb' 8 8 ++ w.extractLsb' 0 8 = w :=
  BitVec.eq_of_toNat_eq (by simp only [toNat_append_mul, toNat_extractLsb'_digits]; omega)

/-! ## Header words and their fields -/

theorem tsWord_fields (w : BitVec 24) : tsWord (tsFields w) (tsAfc w) = w :=
  BitVec.eq_of_toNat_eq (by simp only [tsWord, tsFields, tsAfc, toNat_append_mul, toNat_extractLsb'_digits]; omega)

theorem tsAfc_tsWord (h : TsHeader) (afc : BitVec 2) : tsAfc (tsWord h afc) = afc :=
  BitVec.eq_of_toNat_eq (by simp only [tsWord, tsAfc, toNat_append_mul, toNat_extractLsb'_digits]; omega)

theorem tsFields_tsWord (h : TsHeader) (afc : BitVec 2) : tsFields (tsWord h afc) = h := by
  cases h
  simp only [tsFields, tsWord, TsHeader.mk.injEq]
  refine ⟨?_, ?_, ?_, ?_, ?_, ?_⟩ <;>
    exact BitVec.eq_of_toNat_eq (by simp only [toNat_append_mul, toNat_extractLsb'_digits]; omega)

theorem sectionWord_fields (w : BitVec 16) : sectionWord (sectionFields w) = w :=
  BitVec.eq_of_toNat_eq (by simp only [sectionWord, sectionFields, toNat_append_mul, toNat_extractLsb'_digits]; omega)

theorem sectionFields_sectionWord (h : SectionHeader) : sectionFields (sectionWord h) = h := by
  cases h
  simp only [sectionFields, sectionWord, SectionHeader.mk.injEq]
  refine ⟨?_, ?_, ?_, ?_⟩ <;>
    exact BitVec.eq_of_toNat_eq (by simp only [toNat_append_mul, toNat_extractLsb'_digits]; omega)

/-- A flag and the seven bits after it. -/
theorem flag_append_rest (b : Byte) : b.extractLsb' 7 1 ++ b.extractLsb' 0 7 = b :=
  (BitVec.extractLsb'_append_extractLsb'_eq_extractLsb' (start₁ := 0) (len₁ := 7) rfl).trans BitVec.extractLsb'_eq_self

theorem flag_of_append (f : BitVec 1) (r : BitVec 7) : (f ++ r).extractLsb' 7 1 = f := BitVec.extractLsb'_append_eq_left

theorem rest_of_append (f : BitVec 1) (r : BitVec 7) : (f ++ r).extractLsb' 0 7 = r := BitVec.extractLsb'_append_eq_right

/-- Where a flag is not set it is clear. -/
theorem flag_eq_zero {f : BitVec 1} (h : f ≠ 1#1) : f = 0#1 := (BitVec.eq_zero_or_eq_one f).resolve_right h

end Sys2Proof
end

section
/-! PROOFS. Decoder and encoder agree, family by family: what the decoder reads an instruction from is its encoding, and the
encoding of a well-formed instruction is read as it. -/

namespace Sys2Proof
open Machine (be16_word)

/-! ## Host transactions and CONFIG (R120, R362) -/

theorem encode_of_decodeHost {code : Byte} {operand : Bytes} {i : Instr} (h : decodeHost code operand = .instr i) :
    encode i = .host code operand := by
  unfold decodeHost at h
  repeat' split at h
  all_goals cases h
  all_goals simp_all [encode]

theorem encode_decodeCfg (cfg : Byte) : encode (decodeCfg cfg) = .cfg cfg := by
  unfold decodeCfg
  repeat' split
  all_goals simp_all [encode]

/-! ## TS packets (R91, R92) -/

/-- A packet is read as the row of its adaptation_field_control. -/
theorem decodeTs_packetBytes {body : Bytes} (hlen : body.length = 184) (h : TsHeader) (afc : BitVec 2) :
    decodeTs (packetBytes h afc body) =
      if afc = 0#2 then .instr (.tsAfcReserved h body) else if afc = 1#2 then .instr (.tsPayload h body)
      else if afc = 2#2 then .instr (.tsAdapt h body) else .instr (.tsAdaptPayload h body) := by
  simp [decodeTs, packetBytes, be24, hlen, be24_word, tsAfc_tsWord, tsFields_tsWord]

theorem packetBytes_fields (b1 b2 b3 : Byte) (body : Bytes) :
    packetBytes (tsFields (b1 ++ b2 ++ b3)) (tsAfc (b1 ++ b2 ++ b3)) body = Config.syncByte :: b1 :: b2 :: b3 :: body := by
  rw [packetBytes, tsWord_fields, be24_append]
  rfl

theorem encode_of_decodeTs {b : Bytes} {i : Instr} (h : decodeTs b = .instr i) : encode i = .ts b := by
  unfold decodeTs at h
  split at h
  · cases h
  next c rest =>
  split at h
  · next hsync =>
    subst hsync
    split at h
    · next b1 b2 b3 body =>
      have hpacket : ∀ {afc}, tsAfc (b1 ++ b2 ++ b3) = afc →
          packetBytes (tsFields (b1 ++ b2 ++ b3)) afc body = Config.syncByte :: b1 :: b2 :: b3 :: body := by
        rintro _ rfl
        exact packetBytes_fields b1 b2 b3 body
      split at h
      · simp only at h
        split at h
        · next h0 => cases h; exact congrArg _ (hpacket h0)
        split at h
        · next h1 => cases h; exact congrArg _ (hpacket h1)
        split at h
        · next h2 => cases h; exact congrArg _ (hpacket h2)
        · next h0 h1 h2 => cases h; exact congrArg _ (hpacket (by bv_omega))
      · cases h
    · cases h
  · cases h; rfl

/-! ## Routed packets and main datagrams: selected by state (R125 items 3 and 7) -/

theorem selects_of_decodeRoute {k : Keys} {u : RouteUnit} {i : Instr} (h : decodeRoute k.form u = .instr i) :
    selects k i = true ∧ encode i = .route u := by
  unfold decodeRoute at h
  split at h
  · split at h
    all_goals cases h
    all_goals exact ⟨beq_iff_eq.mpr ‹_›, rfl⟩
  · cases h

theorem selects_of_decodeMain {k : Keys} {g : Bytes} {i : Instr} (h : decodeMain k.cfg g = .instr i) :
    selects k i = true ∧ encode i = .mainDgram g := by
  unfold decodeMain at h
  repeat' split at h
  all_goals cases h
  all_goals exact ⟨beq_iff_eq.mpr ‹_›, rfl⟩

/-! ## Sections (R96) -/

theorem decodeSection_sectionBytes {t : Byte} (ht : t ≠ 0xFF#8) {h : SectionHeader} {body : Bytes}
    (hbody : h.bodyOk body = true) (pid : Option Pid) :
    decodeSection pid (sectionBytes t h body) =
      if t = 0x00#8 then .instr (.secPat pid h body) else if t = 0x02#8 then .instr (.secPmt pid h body)
      else if t = 0xFC#8 then .instr (.secSplice pid h body) else .instr (.secOther pid t h body) := by
  simp only [decodeSection, sectionBytes, be16, List.cons_append, List.nil_append, if_neg ht, be16_word,
    sectionFields_sectionWord, if_pos hbody]

theorem sectionBytes_fields (t h1 h0 : Byte) (body : Bytes) :
    sectionBytes t (sectionFields (h1 ++ h0)) body = t :: h1 :: h0 :: body := by
  rw [sectionBytes, sectionWord_fields, be16_append]
  rfl

theorem encode_of_decodeSection {pid : Option Pid} {b : Bytes} {i : Instr} (h : decodeSection pid b = .instr i) :
    encode i = .sec pid b := by
  unfold decodeSection at h
  split at h
  · cases h
  next t rest =>
  split at h
  · next hff => cases h; rw [hff]; rfl
  split at h
  · next h1 h0 body =>
    have hsec : ∀ {t'}, t = t' → sectionBytes t' (sectionFields (h1 ++ h0)) body = t :: h1 :: h0 :: body := by
      rintro _ rfl
      exact sectionBytes_fields t h1 h0 body
    simp only at h
    repeat' split at h
    all_goals cases h
    · exact congrArg _ (hsec ‹_›)
    · exact congrArg _ (hsec ‹_›)
    · exact congrArg _ (hsec ‹_›)
    · exact congrArg _ (hsec rfl)
  · cases h

/-! ## Splice sections (R102) -/

/-- Bytes 4 to 8: encrypted_packet, encryption_algorithm, pts_adjustment (R102). -/
theorem adjustment_fields (w : BitVec 40) : w.extractLsb' 39 1 ++ w.extractLsb' 33 6 ++ w.extractLsb' 0 33 = w :=
  BitVec.eq_of_toNat_eq (by simp only [toNat_append_mul, toNat_extractLsb'_digits]; omega)

theorem fields_adjustment (enc : BitVec 1) (alg : BitVec 6) (adj : BitVec 33) :
    (enc ++ alg ++ adj).extractLsb' 39 1 = enc ∧ (enc ++ alg ++ adj).extractLsb' 33 6 = alg ∧
      (enc ++ alg ++ adj).extractLsb' 0 33 = adj := by
  refine ⟨?_, ?_, ?_⟩ <;>
    exact BitVec.eq_of_toNat_eq (by simp only [toNat_append_mul, toNat_extractLsb'_digits]; omega)

/-- Bytes 10 to 12: tier and splice_command_length (R102). -/
theorem tier_fields (w : BitVec 24) : w.extractLsb' 12 12 ++ w.extractLsb' 0 12 = w :=
  (BitVec.extractLsb'_append_extractLsb'_eq_extractLsb' (start₁ := 0) (len₁ := 12) rfl).trans BitVec.extractLsb'_eq_self

theorem fields_tier (tier len : BitVec 12) :
    (tier ++ len).extractLsb' 12 12 = tier ∧ (tier ++ len).extractLsb' 0 12 = len :=
  ⟨BitVec.extractLsb'_append_eq_left, BitVec.extractLsb'_append_eq_right⟩

theorem parseSplice_spliceBytes (enc : BitVec 1) (ty : Byte) (u : SpliceUnit) :
    parseSplice u.srcPid u.pcr (spliceBytes enc ty u) = some (enc, ty, u) := by
  obtain ⟨henc, halg, hadj⟩ := fields_adjustment enc u.encryptionAlgorithm u.ptsAdjustment
  obtain ⟨htier, hlen⟩ := fields_tier u.tier u.commandLength
  simp only [parseSplice, spliceBytes, be16, be24, be40, List.cons_append, List.nil_append, be16_word, be24_word,
    be40_word, sectionFields_sectionWord, henc, halg, hadj, htier, hlen]

theorem spliceBytes_of_parseSplice {src : Option Pid} {pcr : Option PcrEntry} {b : Bytes} {enc : BitVec 1} {ty : Byte}
    {u : SpliceUnit} (h : parseSplice src pcr b = some (enc, ty, u)) :
    u.srcPid = src ∧ u.pcr = pcr ∧ spliceBytes enc ty u = b := by
  unfold parseSplice at h
  split at h
  · cases h
    refine ⟨rfl, rfl, ?_⟩
    simp only [spliceBytes, sectionWord_fields, adjustment_fields, tier_fields, be16_append, be24_append, be40_append]
    rfl
  · cases h

theorem encode_of_decodeSplice {src : Option Pid} {pcr : Option PcrEntry} {b : Bytes} {i : Instr}
    (h : decodeSplice src pcr b = .instr i) : encode i = .splice src pcr b := by
  unfold decodeSplice at h
  split at h
  · cases h
  next enc ty u hparse =>
  obtain ⟨rfl, rfl, hbytes⟩ := spliceBytes_of_parseSplice hparse
  rw [← hbytes]
  split at h
  · next henc => cases h; rw [henc]; rfl
  next henc =>
  rw [flag_eq_zero henc]
  repeat' split at h
  all_goals cases h
  all_goals simp only [encode, *]

/-! ## The parts of a splice section (R104, R105, R109) -/

/-- The flag byte of a splice_insert body (R104). -/
theorem insertFlags_fields (f : Byte) :
    f.extractLsb' 7 1 ++ f.extractLsb' 6 1 ++ f.extractLsb' 5 1 ++ f.extractLsb' 4 1 ++ f.extractLsb' 0 4 = f :=
  BitVec.eq_of_toNat_eq (by simp only [toNat_append_mul, toNat_extractLsb'_digits]; omega)

theorem fields_insertFlags (ni psf df sif : BitVec 1) (res : BitVec 4) :
    (ni ++ psf ++ df ++ sif ++ res).extractLsb' 7 1 = ni ∧ (ni ++ psf ++ df ++ sif ++ res).extractLsb' 6 1 = psf ∧
      (ni ++ psf ++ df ++ sif ++ res).extractLsb' 5 1 = df ∧ (ni ++ psf ++ df ++ sif ++ res).extractLsb' 4 1 = sif ∧
        (ni ++ psf ++ df ++ sif ++ res).extractLsb' 0 4 = res := by
  refine ⟨?_, ?_, ?_, ?_, ?_⟩ <;>
    exact BitVec.eq_of_toNat_eq (by simp only [toNat_append_mul, toNat_extractLsb'_digits]; omega)

/-- The six bytes from which `insertFields` was read, with the flags read there (R104). -/
theorem insertBytes_fields {e3 e2 e1 e0 c f : Byte} {rest : Bytes} (hc : c.extractLsb' 7 1 = 0#1) :
    insertBytes (f.extractLsb' 6 1) (f.extractLsb' 5 1) (f.extractLsb' 4 1) (insertFields e3 e2 e1 e0 c f rest) =
      e3 :: e2 :: e1 :: e0 :: c :: f :: rest := by
  have hcancel : (0#1 : BitVec 1) ++ c.extractLsb' 0 7 = c := by rw [← hc]; exact flag_append_rest c
  simp only [insertBytes, insertFields, be32_append, hcancel, insertFlags_fields]
  rfl

theorem decodeInsert_cancel (src : Option Pid) (eventId : BitVec 32) (res : BitVec 7) (rest : Bytes) :
    decodeInsert src (insertCancelBytes eventId res rest) = .instr (.insertCancel src eventId res rest) := by
  simp only [decodeInsert, insertCancelBytes, be32, List.cons_append, List.nil_append, be32_word, flag_of_append,
    rest_of_append, if_true]

/-- A body that is not cancelled is read as the form of its two flags. -/
theorem decodeInsert_insertBytes (src : Option Pid) (psf df sif : BitVec 1) (u : InsertUnit) :
    decodeInsert src (insertBytes psf df sif u) =
      if psf = 1#1 then
        (if sif = 0#1 then .instr (.insertProgramTimed src df u) else .instr (.insertProgramImmediate src df u))
      else if sif = 0#1 then .instr (.insertComponentTimed src df u) else .instr (.insertComponentImmediate src df u) := by
  obtain ⟨hni, hpsf, hdf, hsif, hres⟩ := fields_insertFlags u.networkIndicator psf df sif u.reserved2
  have hcancel : ¬ (0#1 = 1#1) := by decide
  simp only [decodeInsert, insertBytes, insertFields, be32, List.cons_append, List.nil_append, be32_word,
    flag_of_append, rest_of_append, if_neg hcancel, hni, hpsf, hdf, hsif, hres]

theorem decodeDuration_insertBytes (src : Option Pid) (psf sif : BitVec 1) (u : InsertUnit) :
    decodeDuration src (insertBytes psf 1#1 sif u) = .instr (.insertDuration src psf sif u) := by
  obtain ⟨hni, hpsf, hdf, hsif, hres⟩ := fields_insertFlags u.networkIndicator psf 1#1 sif u.reserved2
  simp only [decodeDuration, insertBytes, insertFields, be32, List.cons_append, List.nil_append, be32_word,
    flag_of_append, rest_of_append, hni, hpsf, hdf, hsif, hres, and_self, if_true]

/-- A body that is not cancelled, whatever its two form flags. -/
theorem encode_of_decodeInsert_insertBytes {src : Option Pid} {psf df sif : BitVec 1} {u : InsertUnit} {i : Instr}
    (h : decodeInsert src (insertBytes psf df sif u) = .instr i) : encode i = .insert src (insertBytes psf df sif u) := by
  rw [decodeInsert_insertBytes] at h
  obtain rfl | rfl := BitVec.eq_zero_or_eq_one psf
  all_goals obtain rfl | rfl := BitVec.eq_zero_or_eq_one sif
  all_goals cases h
  all_goals rfl

theorem encode_of_decodeInsert {src : Option Pid} {b : Bytes} {i : Instr} (h : decodeInsert src b = .instr i) :
    encode i = .insert src b := by
  match b with
  | e3 :: e2 :: e1 :: e0 :: c :: rest =>
    by_cases hc : c.extractLsb' 7 1 = 1#1
    · simp only [decodeInsert, if_pos hc] at h
      cases h
      have hcancel : (1#1 : BitVec 1) ++ c.extractLsb' 0 7 = c := by rw [← hc]; exact flag_append_rest c
      simp only [encode, insertCancelBytes, be32_append, hcancel]
      rfl
    · match rest with
      | [] => simp only [decodeInsert, if_neg hc] at h; cases h
      | f :: rest =>
        rw [← insertBytes_fields (flag_eq_zero hc)] at h ⊢
        exact encode_of_decodeInsert_insertBytes h
  | [] | [_] | [_, _] | [_, _, _] | [_, _, _, _] => cases h

theorem encode_of_decodeDuration {src : Option Pid} {b : Bytes} {i : Instr} (h : decodeDuration src b = .instr i) :
    encode i = .duration src b := by
  unfold decodeDuration at h
  split at h
  · next e3 e2 e1 e0 c f rest =>
    split at h
    · next hc =>
      obtain ⟨hcancel, hdf⟩ := hc
      cases h
      rw [encode, ← hdf, insertBytes_fields hcancel]
    · cases h
  · cases h

/-- The first byte of a splice_time with a pts_time (R105). -/
theorem timeSpecified_fields {b : Byte} (h : b.extractLsb' 7 1 = 1#1) :
    1#1 ++ b.extractLsb' 1 6 ++ b.extractLsb' 0 1 = b := by
  rw [← h]
  exact BitVec.eq_of_toNat_eq (by simp only [toNat_append_mul, toNat_extractLsb'_digits]; omega)

theorem fields_timeSpecified (res : BitVec 6) (msb : BitVec 1) :
    (1#1 ++ res ++ msb).extractLsb' 7 1 = 1#1 ∧ (1#1 ++ res ++ msb).extractLsb' 1 6 = res ∧
      (1#1 ++ res ++ msb).extractLsb' 0 1 = msb := by
  refine ⟨?_, ?_, ?_⟩ <;>
    exact BitVec.eq_of_toNat_eq (by simp only [toNat_append_mul, toNat_extractLsb'_digits]; omega)

theorem decodeSpliceTime_specified (src : Option Pid) (res : BitVec 6) (msb : BitVec 1) (rest : Bytes) :
    decodeSpliceTime src ((1#1 ++ res ++ msb) :: rest) = .instr (.spliceTimeSpecified src res msb rest) := by
  obtain ⟨hflag, hres, hmsb⟩ := fields_timeSpecified res msb
  simp only [decodeSpliceTime, hflag, hres, hmsb, if_true]

theorem decodeSpliceTime_unspecified (src : Option Pid) (res : BitVec 7) (rest : Bytes) :
    decodeSpliceTime src ((0#1 ++ res) :: rest) = .instr (.spliceTimeUnspecified src res rest) := by
  have hflag : ¬ (0#1 = 1#1) := by decide
  simp only [decodeSpliceTime, flag_of_append, rest_of_append, if_neg hflag]

theorem encode_of_decodeSpliceTime {src : Option Pid} {b : Bytes} {i : Instr} (h : decodeSpliceTime src b = .instr i) :
    encode i = .spliceTime src b := by
  unfold decodeSpliceTime at h
  split at h
  · cases h
  split at h
  · next hflag => cases h; rw [encode, timeSpecified_fields hflag]
  · next c rest hflag =>
    cases h
    have hbyte : (0#1 : BitVec 1) ++ c.extractLsb' 0 7 = c := by rw [← flag_eq_zero hflag]; exact flag_append_rest c
    rw [encode, hbyte]

theorem encode_of_decodeDescriptor {src : Option Pid} {b : Bytes} {i : Instr} (h : decodeDescriptor src b = .instr i) :
    encode i = .descriptor src b := by
  unfold decodeDescriptor at h
  split at h
  all_goals cases h
  rfl

theorem encode_of_decodePmtDescriptor {pid : Pid} {b : Bytes} {i : Instr} (h : decodePmtDescriptor pid b = .instr i) :
    encode i = .pmtDescriptor pid b := by
  unfold decodePmtDescriptor at h
  split at h
  · split at h
    · next hc =>
      obtain ⟨htag, -, hcuei⟩ := hc
      cases h
      rw [encode, ← hcuei, htag]
      rfl
    · cases h
  · cases h

/-! ## RTP and parity datagrams (R115, R118) -/

theorem parseRtp_rtpBytes (h : RtpHeader) (payload : Bytes) : parseRtp (rtpBytes h ++ payload) = some (h, payload) := by
  simp only [parseRtp, rtpBytes, be16, be32, List.cons_append, List.nil_append, be16_word, be32_word, flag_of_append,
    rest_of_append, if_true]

theorem rtpBytes_of_parseRtp {g : Bytes} {h : RtpHeader} {payload : Bytes} (hg : parseRtp g = some (h, payload)) :
    rtpBytes h ++ payload = g := by
  unfold parseRtp at hg
  split at hg
  · split at hg
    · next hv =>
      cases hg
      simp only [rtpBytes, be16_append, be32_append, flag_append_rest, hv]
      rfl
    · cases hg
  · cases hg

theorem length_rtpBytes (h : RtpHeader) : (rtpBytes h).length = 12 := rfl

theorem rtpBad_rtpBytes (h : RtpHeader) (payload : Bytes) : rtpBad (rtpBytes h ++ payload) = false := by
  have hversion : (rtpBytes h ++ payload).headD 0 = 0x80#8 := rfl
  simp only [rtpBad, List.length_append, length_rtpBytes, hversion, bne_self_eq_false, Bool.or_false,
    decide_eq_false_iff_not]
  omega

/-- RTP.PARSE refuses exactly the datagrams of R303. -/
theorem parseRtp_eq_none_iff {g : Bytes} : parseRtp g = none ↔ rtpBad g = true := by
  refine ⟨rtpBad_of_parseRtp_eq_none, fun hbad => ?_⟩
  cases hg : parseRtp g with
  | none => rfl
  | some r =>
    obtain ⟨h, payload⟩ := r
    rw [← rtpBytes_of_parseRtp hg, rtpBad_rtpBytes] at hbad
    cases hbad

/-- The byte of N, D, type and index in the FEC header (R118). -/
theorem fecKind_fields (b : Byte) :
    b.extractLsb' 7 1 ++ b.extractLsb' 6 1 ++ b.extractLsb' 3 3 ++ b.extractLsb' 0 3 = b :=
  BitVec.eq_of_toNat_eq (by simp only [toNat_append_mul, toNat_extractLsb'_digits]; omega)

theorem fields_fecKind (n d : BitVec 1) (ty index : BitVec 3) :
    (n ++ d ++ ty ++ index).extractLsb' 7 1 = n ∧ (n ++ d ++ ty ++ index).extractLsb' 6 1 = d ∧
      (n ++ d ++ ty ++ index).extractLsb' 3 3 = ty ∧ (n ++ d ++ ty ++ index).extractLsb' 0 3 = index := by
  refine ⟨?_, ?_, ?_, ?_⟩ <;>
    exact BitVec.eq_of_toNat_eq (by simp only [toNat_append_mul, toNat_extractLsb'_digits]; omega)

/-- The FEC header and parity payload of a unit (R118). -/
def fecTail (u : FecUnit) : Bytes :=
  be16 u.snbase ++ be16 u.lenrec ++ [u.extension ++ u.ptRecovery] ++ be24 u.mask ++ be32 u.tsRecovery ++
    [u.n ++ u.d ++ u.fecType ++ u.index, u.offset, u.na, u.snbaseExt] ++ u.payload

theorem fecBytes_eq (u : FecUnit) : fecBytes u = rtpBytes u.rtp ++ fecTail u := by
  simp only [fecBytes, fecTail, List.append_assoc]

theorem parseFecHeader_fecTail (u : FecUnit) : parseFecHeader u.rtp (fecTail u) = some u := by
  obtain ⟨hn, hd, hty, hindex⟩ := fields_fecKind u.n u.d u.fecType u.index
  simp only [parseFecHeader, fecTail, be16, be24, be32, List.cons_append, List.nil_append, be16_word, be24_word,
    be32_word, flag_of_append, rest_of_append, hn, hd, hty, hindex]

theorem fecTail_of_parseFecHeader {h : RtpHeader} {f : Bytes} {u : FecUnit} (hu : parseFecHeader h f = some u) :
    u.rtp = h ∧ fecTail u = f := by
  unfold parseFecHeader at hu
  split at hu
  · cases hu
    refine ⟨rfl, ?_⟩
    simp only [fecTail, be16_append, be24_append, be32_append, flag_append_rest, fecKind_fields]
    rfl
  · cases hu

theorem parseFec_fecBytes {u : FecUnit} (hoff : u.offset ≠ 0#8) (hna : u.na ≠ 0#8) : parseFec (fecBytes u) = some u := by
  simp only [parseFec, fecBytes_eq, parseRtp_rtpBytes, parseFecHeader_fecTail, hoff, hna, or_self, if_false]

theorem fecBytes_of_parseFec {g : Bytes} {u : FecUnit} (h : parseFec g = some u) : fecBytes u = g := by
  unfold parseFec at h
  split at h
  · cases h
  next r f hr =>
  split at h
  · cases h
  next v hv =>
  split at h
  · cases h
  · cases h
    obtain ⟨rfl, rfl⟩ := fecTail_of_parseFecHeader hv
    rw [fecBytes_eq, rtpBytes_of_parseRtp hr]

theorem length_fecTail (u : FecUnit) : (fecTail u).length = 16 + u.payload.length := by
  simp [fecTail, be16, be24, be32]
  omega

theorem fecBad_fecBytes (u : FecUnit) : fecBad (fecBytes u) = (u.offset == 0#8 || u.na == 0#8) := by
  have hoff : (fecBytes u).getD 25 0 = u.offset := rfl
  have hna : (fecBytes u).getD 26 0 = u.na := rfl
  have hlen : ¬ (fecBytes u).length < 28 := by
    rw [fecBytes_eq, List.length_append, length_rtpBytes, length_fecTail]
    omega
  rw [fecBad, hoff, hna, decide_eq_false hlen, fecBytes_eq, rtpBad_rtpBytes, Bool.false_or, Bool.false_or]

/-- FEC.PARSE refuses exactly the datagrams of R322. -/
theorem parseFec_eq_none_iff {g : Bytes} : parseFec g = none ↔ fecBad g = true := by
  refine ⟨fecBad_of_parseFec_eq_none, fun hbad => ?_⟩
  cases hg : parseFec g with
  | none => rfl
  | some u =>
    obtain ⟨hoff, hna⟩ := parseFec_eq_some hg
    rw [← fecBytes_of_parseFec hg, fecBad_fecBytes] at hbad
    simp [hoff, hna] at hbad

theorem encode_decodeRtp (port : Port) (g : Bytes) : encode (decodeRtp port g) = .rtp port g := by
  unfold decodeRtp
  split
  · next h => exact congrArg _ (rtpBytes_of_parseRtp h)
  · rfl

theorem encode_of_decodeFec {port : Port} {g : Bytes} {i : Instr} (h : decodeFec port g = .instr i) :
    encode i = .fec port g := by
  unfold decodeFec at h
  split at h
  · cases h
  all_goals
    split at h
    all_goals cases h
    · exact congrArg _ (fecBytes_of_parseFec ‹_›)
    · rfl

/-! ## Every request and every instruction -/

/-- Whether the row of a request is selected by state (R125 items 3 and 7). -/
def keyed : Request → Bool
  | .route _ | .mainDgram _ => true
  | .host _ _ | .cfg _ | .ts _ | .sec _ _ | .splice _ _ _ | .insert _ _ | .duration _ _ | .spliceTime _ _
  | .descriptor _ _ | .pmtDescriptor _ _ | .rtp _ _ | .fec _ _ | .brInit _ _ | .brRead _ | .brSkip _ | .brPos
  | .brAligned => false

/-- Any keys select an instruction that is not selected by state. -/
theorem selects_of_encode {i : Instr} {r : Request} (hr : keyed r = false) (h : encode i = r) (k : Keys) :
    selects k i = true ∧ encode i = r := by
  refine ⟨?_, h⟩
  subst h
  cases i with
  | routeEmpty | routeNull | routePat | routePmt | routeScte35 | routePcrwatch => cases hr
  | mainRaw | mainRtp | mainRtpFec => cases hr
  | _ => rfl

/-- What the decoder reads as an instruction is selected by the keys and is the instruction's encoding. -/
theorem selects_and_encode_of_decode {k : Keys} {r : Request} {i : Instr} (h : decode k r = .instr i) :
    selects k i = true ∧ encode i = r := by
  cases r with
  | route => exact selects_of_decodeRoute h
  | mainDgram => exact selects_of_decodeMain h
  | host => exact selects_of_encode rfl (encode_of_decodeHost h) k
  | cfg b => cases h; exact selects_of_encode rfl (encode_decodeCfg b) k
  | ts => exact selects_of_encode rfl (encode_of_decodeTs h) k
  | sec => exact selects_of_encode rfl (encode_of_decodeSection h) k
  | splice => exact selects_of_encode rfl (encode_of_decodeSplice h) k
  | insert => exact selects_of_encode rfl (encode_of_decodeInsert h) k
  | duration => exact selects_of_encode rfl (encode_of_decodeDuration h) k
  | spliceTime => exact selects_of_encode rfl (encode_of_decodeSpliceTime h) k
  | descriptor => exact selects_of_encode rfl (encode_of_decodeDescriptor h) k
  | pmtDescriptor => exact selects_of_encode rfl (encode_of_decodePmtDescriptor h) k
  | rtp port g => cases h; exact selects_of_encode rfl (encode_decodeRtp port g) k
  | fec => exact selects_of_encode rfl (encode_of_decodeFec h) k
  | brInit buf p => cases h; exact ⟨rfl, congrArg _ (Fin.ofNat_val_eq_self p)⟩
  | brRead | brSkip | brPos | brAligned => cases h; exact ⟨rfl, rfl⟩

/-- Settles O4: the decoder answers well-formed instructions, and each family's bytes are those of the fields read. -/
theorem encodeOfDecodeIsTheRequest : Obligations.EncodeOfDecodeIsTheRequest := fun _ _ _ h =>
  ⟨wf_of_decode h, selects_and_encode_of_decode h⟩

/-- The catch-all command row (R369). -/
theorem decodeHost_illegal {code : Byte} (h : illegalCode code = true) (operand : Bytes) :
    decodeHost code operand = .instr (.hostIllegal code operand) := by
  simp only [illegalCode, decide_eq_true_eq] at h
  have hne : ∀ c : Byte, c.toNat < 9 → code ≠ c := by rintro _ hc rfl; omega
  simp [decodeHost, hne]

/-- The catch-all CONFIG row (R362). -/
theorem decodeCfg_illegal {cfg : Byte} (h : legalCfg cfg = false) : decodeCfg cfg = .configIllegal cfg := by
  simp only [legalCfg, Bool.or_eq_false_iff, beq_eq_false_iff_ne] at h
  obtain ⟨⟨⟨⟨h1, h2⟩, h3⟩, hA⟩, hE⟩ := h
  simp only [decodeCfg, h1, h2, h3, hA, hE, if_false]

theorem decodeTs_nosync {b : Bytes} (h : (Instr.tsNosync b).wf = true) : decodeTs b = .instr (.tsNosync b) := by
  cases b with
  | nil => simp [Instr.wf] at h
  | cons c rest =>
    have hc : c ≠ Config.syncByte := by simpa [Instr.wf] using h
    simp only [decodeTs, if_neg hc]

/-- The catch-all section row (R202). -/
theorem decodeSection_other {t : Byte} (ht : namedTableId t = false) {h : SectionHeader} {body : Bytes}
    (hbody : h.bodyOk body = true) (pid : Option Pid) :
    decodeSection pid (sectionBytes t h body) = .instr (.secOther pid t h body) := by
  simp only [namedTableId, Bool.or_eq_false_iff, beq_eq_false_iff_ne] at ht
  obtain ⟨⟨⟨hpat, hpmt⟩, hsplice⟩, hstuffing⟩ := ht
  simp only [decodeSection_sectionBytes hstuffing hbody, hpat, hpmt, hsplice, if_false]

/-- A clear section is read as the row of its splice_command_type (R259). -/
theorem decodeSplice_clear (ty : Byte) (u : SpliceUnit) :
    decodeSplice u.srcPid u.pcr (spliceBytes 0#1 ty u) =
      if ty = 0x00#8 then .instr (.spliceNull u) else if ty = 0x04#8 then .instr (.spliceSchedule u)
      else if ty = 0x05#8 then .instr (.spliceInsert u) else if ty = 0x06#8 then .instr (.timeSignal u)
      else if ty = 0x07#8 then .instr (.bandwidthReservation u) else if ty = 0xFF#8 then .instr (.privateCommand u)
      else .instr (.spliceReserved ty u) := by
  have hclear : ¬ (0#1 = 1#1) := by decide
  simp only [decodeSplice, parseSplice_spliceBytes, if_neg hclear]

/-- The catch-all splice row (R274). -/
theorem decodeSplice_reserved {ty : Byte} (h : namedCommand ty = false) (u : SpliceUnit) :
    decodeSplice u.srcPid u.pcr (spliceBytes 0#1 ty u) = .instr (.spliceReserved ty u) := by
  simp only [namedCommand, Bool.or_eq_false_iff, beq_eq_false_iff_ne] at h
  obtain ⟨⟨⟨⟨⟨h0, h4⟩, h5⟩, h6⟩, h7⟩, hFF⟩ := h
  simp only [decodeSplice_clear, h0, h4, h5, h6, h7, hFF, if_false]

theorem decodePmtDescriptor_cuei {len : Byte} (h : 4 ≤ len.toNat) (pid : Pid) (rest : Bytes) :
    decodePmtDescriptor pid (0x05#8 :: len :: (cuei ++ rest)) = .instr (.pmtRegistrationCuei pid len rest) :=
  if_pos ⟨rfl, h, rfl⟩

theorem decodeRtp_malformed {port : Port} {g : Bytes} (h : rtpBad g = true) :
    decodeRtp port g = .rtpMalformed port g := by
  rw [decodeRtp, parseRtp_eq_none_iff.mpr h]

theorem decodeFec_malformed {port : Port} {g : Bytes} (hport : port ≠ .main) (h : fecBad g = true) :
    decodeFec port g = .instr (.fecMalformed port g) := by
  have hnone := parseFec_eq_none_iff.mpr h
  cases port with
  | main => exact absurd rfl hport
  | col | row => rw [decodeFec, hnone]

/-- Settles O3: each family's bytes are read back field by field, and a well-formed catch-all row is reached because no
named row has its selector. -/
theorem decodeOfEncodeIsTheInstruction : Obligations.DecodeOfEncodeIsTheInstruction := by
  intro i k hwf hkeys
  cases i with
  | hostIllegal code operand => exact decodeHost_illegal hwf operand
  | configIllegal cfg => exact congrArg _ (decodeCfg_illegal (by simpa [Instr.wf] using hwf))
  | tsPayload h body | tsAdapt h body | tsAdaptPayload h body | tsAfcReserved h body =>
    exact decodeTs_packetBytes (beq_iff_eq.mp hwf) h _
  | tsNosync b => exact decodeTs_nosync hwf
  | routeEmpty u | routeNull u | routePat u | routePmt pn u | routeScte35 e key u | routePcrwatch key u =>
    simp only [decode, encode, decodeRoute, if_pos (show u.wf = true from hwf), beq_iff_eq.mp hkeys]
  | secPat pid h body => exact decodeSection_sectionBytes (t := 0x00#8) (by decide) hwf pid
  | secPmt pid h body => exact decodeSection_sectionBytes (t := 0x02#8) (by decide) hwf pid
  | secSplice pid h body => exact decodeSection_sectionBytes (t := 0xFC#8) (by decide) hwf pid
  | secOther pid t h body =>
    obtain ⟨ht, hbody⟩ := Bool.and_eq_true_iff.mp hwf
    exact decodeSection_other (by simpa using ht) hbody pid
  | spliceEncrypted ty u => simp only [decode, encode, decodeSplice, parseSplice_spliceBytes, if_true]
  | spliceNull u | spliceSchedule u | spliceInsert u | timeSignal u | bandwidthReservation u | privateCommand u =>
    exact decodeSplice_clear _ u
  | spliceReserved tag u => exact decodeSplice_reserved (by simpa [Instr.wf] using hwf) u
  | insertCancel src eventId res rest => exact decodeInsert_cancel src eventId res rest
  | insertProgramTimed src df u | insertProgramImmediate src df u | insertComponentTimed src df u
  | insertComponentImmediate src df u => exact decodeInsert_insertBytes src _ df _ u
  | insertDuration src psf sif u => exact decodeDuration_insertBytes src psf sif u
  | spliceTimeSpecified src res msb rest => exact decodeSpliceTime_specified src res msb rest
  | spliceTimeUnspecified src res rest => exact decodeSpliceTime_unspecified src res rest
  | pmtRegistrationCuei pid len rest => exact decodePmtDescriptor_cuei (of_decide_eq_true hwf) pid rest
  | mainRaw g | mainRtp g | mainRtpFec g => simp only [decode, encode, decodeMain, beq_iff_eq.mp hkeys]; rfl
  | rtpV2 port h payload => simp only [decode, encode, decodeRtp, parseRtp_rtpBytes]
  | rtpMalformed port g => exact congrArg _ (decodeRtp_malformed hwf)
  | fecCol u | fecRow u =>
    obtain ⟨hoff, hna⟩ := Bool.and_eq_true_iff.mp hwf
    simp only [decode, encode, decodeFec, parseFec_fecBytes (bne_iff_ne.mp hoff) (bne_iff_ne.mp hna)]
  | fecMalformed port g =>
    obtain ⟨hport, hbad⟩ := Bool.and_eq_true_iff.mp hwf
    exact decodeFec_malformed (bne_iff_ne.mp hport) hbad
  | brInit buf p =>
    have hp : p < 8 * buf.length + 1 := Nat.lt_succ_of_le (of_decide_eq_true hwf)
    simp only [decode, encode, Fin.val_ofNat, Nat.mod_eq_of_lt hp]
  | _ => rfl

end Sys2Proof
end

section
/-! PROOFS. The CRC register (R97): it ends at 0 over a section exactly where the last four bytes are what it held before
them, because a step of it is linear and sends no other value to 0. -/

namespace Sys2Proof.Machine

/-! ## One step and eight -/

/-- The polynomial is odd, so a step that shifts the top bit out leaves bit 0 set: only 0 goes to 0. -/
theorem crcStep_eq_zero {c : BitVec 32} : crcStep c = 0#32 ↔ c = 0#32 := by
  refine ⟨fun h => ?_, by rintro rfl; rfl⟩
  have hbit : (crcStep c).getLsbD 0 = c.getLsbD 31 := by
    unfold crcStep
    cases htop : c.getLsbD 31 <;> simp [crcPoly]
  have htop : c.getLsbD 31 = false := by rw [← hbit, h]; rfl
  have hshift : c <<< (1 : Nat) = 0#32 := by simpa only [crcStep, htop, Bool.false_eq_true, if_false] using h
  have hhalf := BitVec.msb_eq_false_iff_two_mul_lt.mp (show c.msb = false from htop)
  have hdouble := congrArg BitVec.toNat hshift
  rw [BitVec.toNat_shiftLeft, Nat.shiftLeft_eq, Nat.mod_eq_of_lt (by omega), BitVec.toNat_ofNat] at hdouble
  exact BitVec.eq_of_toNat_eq (by rw [BitVec.toNat_ofNat]; omega)

theorem crcStep8_eq_zero {c : BitVec 32} : crcStep8 c = 0#32 ↔ c = 0#32 := by simp only [crcStep8, crcStep_eq_zero]

/-- A difference below the top bit is only shifted. -/
theorem crcStep_xor {y : BitVec 32} (hy : y.getLsbD 31 = false) (x : BitVec 32) :
    crcStep (x ^^^ y) = crcStep x ^^^ (y <<< (1 : Nat)) := by
  unfold crcStep
  rw [BitVec.getLsbD_xor, hy, Bool.xor_false, BitVec.shiftLeft_xor_distrib]
  split
  · rw [BitVec.xor_assoc, BitVec.xor_comm _ crcPoly, ← BitVec.xor_assoc]
  · rfl

/-- A byte below the top one is only shifted by eight steps. -/
theorem crcStep8_xor (x : BitVec 32) (b : Byte) {k : Nat} (hk : k ≤ 16) :
    crcStep8 (x ^^^ (b.setWidth 32 <<< k)) = crcStep8 x ^^^ (b.setWidth 32 <<< (k + 8)) := by
  have hstep : ∀ {j : Nat}, j < 24 → ∀ x,
      crcStep (x ^^^ (b.setWidth 32 <<< j)) = crcStep x ^^^ (b.setWidth 32 <<< (j + 1)) := by
    intro j hj x
    rw [crcStep_xor, BitVec.shiftLeft_add]
    rw [BitVec.getLsbD_shiftLeft, BitVec.getLsbD_setWidth, BitVec.getLsbD_of_ge b _ (by omega), Bool.and_false,
      Bool.and_false]
  have h8 : k + 8 = k + 1 + 1 + 1 + 1 + 1 + 1 + 1 + 1 := rfl
  simp only [crcStep8, h8]
  rw [hstep, hstep, hstep, hstep, hstep, hstep, hstep, hstep]
  all_goals omega

/-! ## Four bytes -/

theorem byte_append_zero (b : Byte) : b ++ 0#24 = b.setWidth 32 <<< 24 := by
  apply BitVec.eq_of_getLsbD_eq
  intro i hi
  simp only [BitVec.getLsbD_append, BitVec.getLsbD_shiftLeft, BitVec.getLsbD_setWidth]
  grind

/-- The bytes of a word stand apart from each other. -/
theorem word_eq_xor (b₃ b₂ b₁ b₀ : Byte) :
    b₃ ++ b₂ ++ b₁ ++ b₀ =
      (b₃.setWidth 32 <<< 24) ^^^ (b₂.setWidth 32 <<< 16) ^^^ (b₁.setWidth 32 <<< 8) ^^^ (b₀.setWidth 32 <<< 0) := by
  apply BitVec.eq_of_getLsbD_eq
  intro i hi
  simp only [BitVec.getLsbD_append, BitVec.getLsbD_xor, BitVec.getLsbD_shiftLeft, BitVec.getLsbD_setWidth]
  grind

/-- Four bytes are the word they make, put on the register at once, and 32 steps. -/
theorem crcByte_word (c : BitVec 32) (b₃ b₂ b₁ b₀ : Byte) :
    crcByte (crcByte (crcByte (crcByte c b₃) b₂) b₁) b₀ =
      crcStep8 (crcStep8 (crcStep8 (crcStep8 (c ^^^ (b₃ ++ b₂ ++ b₁ ++ b₀))))) := by
  simp only [crcByte, byte_append_zero, word_eq_xor, ← BitVec.xor_assoc]
  rw [crcStep8_xor _ b₀ (k := 0) (by decide), crcStep8_xor _ b₀ (k := 8) (by decide),
    crcStep8_xor _ b₀ (k := 16) (by decide), crcStep8_xor _ b₁ (k := 8) (by decide),
    crcStep8_xor _ b₁ (k := 16) (by decide), crcStep8_xor _ b₂ (k := 16) (by decide)]

/-- The register over a body and four bytes more ends at 0 where they are what it held (R97). -/
theorem crc_append_word_eq_zero (body : Bytes) (b₃ b₂ b₁ b₀ : Byte) :
    crc (body ++ [b₃, b₂, b₁, b₀]) = 0#32 ↔ crc body = b₃ ++ b₂ ++ b₁ ++ b₀ := by
  have hfour : crc (body ++ [b₃, b₂, b₁, b₀]) = crcByte (crcByte (crcByte (crcByte (crc body) b₃) b₂) b₁) b₀ := by
    rw [crc, List.foldl_append]
    rfl
  rw [hfour, crcByte_word]
  simp only [crcStep8_eq_zero, BitVec.xor_eq_zero_iff]

/-! ## Good sections -/

/-- A section split at its last four bytes (R96, R201). -/
theorem crcGood_append (body : Bytes) (b₃ b₂ b₁ b₀ : Byte) :
    crcGood (body ++ [b₃, b₂, b₁, b₀]) = true ↔ crc body = b₃ ++ b₂ ++ b₁ ++ b₀ := by
  have hlen : (body ++ [b₃, b₂, b₁, b₀]).length - 4 = body.length := by simp
  have hword : u32be (body ++ [b₃, b₂, b₁, b₀]) body.length = b₃ ++ b₂ ++ b₁ ++ b₀ := by
    simp [u32be, byteAt]
  rw [crcGood, hlen, List.take_left, hword]
  simp

/-- Settles O47: a section of at least 4 bytes is a body and four bytes, and both sides say that these are the CRC of it. -/
theorem crcOfAGoodSectionIsZero : Obligations.CrcOfAGoodSectionIsZero := by
  refine ⟨fun sec hlen => ?_, fun bs => ?_⟩
  · have hlast : (sec.drop (sec.length - 4)).length = 4 := by rw [List.length_drop]; omega
    obtain ⟨b₃, b₂, b₁, b₀, hfour⟩ := List.length_eq_four.mp hlast
    rw [← List.take_append_drop (sec.length - 4) sec, hfour, crcGood_append, crc_append_word_eq_zero]
  · exact (crcGood_append bs _ _ _ _).mpr (be32_word (crc bs)).symm

end Sys2Proof.Machine
end

section
/-! PROOFS. Rows with a check of their own: descriptors inside their loop, packets routed by their fields, and parity
datagrams. -/

namespace Sys2Proof.Machine

/-- A recoverable exception in a unit-level row (R394). -/
theorem inUnit_raise {s : State} (hm : s.mode ≠ .fatal) {x : Exn} (hx : x.fatalCode = none) :
    inUnit (raise x) s = .next { s with events := s.events ++ [.exn x] } := by
  rw [inUnit_live hm, raise_recoverable hx]
  rfl

/-! ## Descriptors (R100, R109) -/

theorem exec_spliceDescriptor {s : State} (hm : s.mode ≠ .fatal) (src : Option Pid) (tag len : Byte) (rest : Bytes) :
    exec (.spliceDescriptor src tag len rest) s = .next { s with events := s.events ++
      [if rest.length < len.toNat then .exn (.x15 src) else .descriptor src tag (rest.take len.toNat)] } := by
  show execSpliceDescriptor src tag len rest s = _
  rw [execSpliceDescriptor, inUnit_live hm]
  split
  · rw [raise_recoverable rfl]; rfl
  · rfl

theorem exec_pmtRegistrationCuei {s : State} (hm : s.mode ≠ .fatal) (pid : Pid) (len : Byte) (rest : Bytes) :
    exec (.pmtRegistrationCuei pid len rest) s = .next (if rest.length + 4 < len.toNat then
      { s with events := s.events ++ [.exn (.x10 pid)] } else { s with result := .cueiRegistered }) := by
  show execPmtRegistrationCuei pid len rest s = _
  rw [execPmtRegistrationCuei, inUnit_live hm]
  split
  · rw [raise_recoverable rfl]; rfl
  · rfl

/-- Settles O46. -/
theorem descriptorRowsCheckTheirLoop : Obligations.DescriptorRowsCheckTheirLoop := by
  intro src pid tag len rest s hm
  rw [exec_spliceDescriptor hm, exec_pmtRegistrationCuei hm]
  refine ⟨fun hfits => ?_, fun hpast => ?_, fun hfits => ?_, fun hpast => ?_⟩
  · rw [if_neg (by omega)]
  · rw [if_pos hpast]
  · rw [if_neg (by omega)]
  · rw [if_pos (by omega)]

/-! ## Packets (R92, R93, R159) -/

/-- The row that the slot's form selects is ROUTE (R125 item 3, R162). -/
theorem exec_routeRow_formAt {s : State} (hm : s.mode ≠ .fatal) (u : RouteUnit) :
    exec (routeRow (formAt s u.pid) u) s = .next (route u s) := by
  have hrow : ∀ {f act}, formAt s u.pid = f → inUnit (runRoute f u act) s = .next (act s) := fun hf => by
    rw [inUnit_live hm, runRoute, if_pos hf]
  have hbuilt : formAt s u.pid ≠ .empty → route u s = routeBuilt u s := fun hf => by rw [route, if_neg hf]
  cases hf : formAt s u.pid with
  | empty =>
    have hroute : route u s = routeBuilt u (construct u.pid s) := by rw [route, if_pos hf]
    rw [hroute]
    exact hrow hf
  | null | pat | pmt | scte35 | pcrWatch =>
    rw [hbuilt (by simp [hf]), routeBuilt, hf]
    exact hrow hf

/-- A PCR is given by its two numbers (R93). -/
theorem pcrOf_eq {p0 p1 p2 p3 p4 p5 : Byte} {rest : Bytes} {pcr : Pcr}
    (hbase : pcr.base.toNat = p0.toNat * 2 ^ 25 + p1.toNat * 2 ^ 17 + p2.toNat * 2 ^ 9 + p3.toNat * 2 + p4.toNat / 128)
    (hext : pcr.ext.toNat = p4.toNat % 2 * 256 + p5.toNat) :
    pcrOf (p0 :: p1 :: p2 :: p3 :: p4 :: p5 :: rest) = pcr := by
  obtain ⟨base, ext⟩ := pcr
  simp only at hbase hext
  show Pcr.mk ((p0 ++ p1 ++ p2 ++ p3 ++ p4 ++ p5).extractLsb' 15 33) ((p0 ++ p1 ++ p2 ++ p3 ++ p4 ++ p5).extractLsb' 0 9) = _
  congr 1
  all_goals
    apply BitVec.eq_of_toNat_eq
    simp only [toNat_extractLsb'_digits, toNat_append_mul]
    omega

/-- A flag is set where its one-bit field is 1. -/
theorem getLsbD_eq_true_iff (b : Byte) (i : Nat) : b.getLsbD i = true ↔ b.extractLsb' i 1 = 1#1 := by
  rw [BitVec.getLsbD, Nat.testBit_eq_decide_div_mod_eq, decide_eq_true_eq, ← BitVec.toNat_inj, toNat_extractLsb'_digits]
  rfl

/-- What an adaptation field comes to: malformed, without a PCR, or with one (R92, R93, R160). -/
theorem adaptation_eq (n flags : Byte) (most : Nat) (p : Bytes) :
    adaptation most (n :: flags :: p) =
      if most < n.toNat ∨ ((1 ≤ n.toNat ∧ flags.extractLsb' 4 1 = 1#1) ∧ n.toNat < 7) then none
      else some (n.toNat, if 1 ≤ n.toNat ∧ flags.extractLsb' 4 1 = 1#1 then some (pcrOf p) else none) := by
  have hn : byteAt (n :: flags :: p) 0 = n := rfl
  have hflags : byteAt (n :: flags :: p) 1 = flags := rfl
  have hp : (n :: flags :: p).drop 2 = p := rfl
  simp only [adaptation, hn, hflags, hp, getLsbD_eq_true_iff]
  by_cases hmost : most < n.toNat
  · simp [hmost]
  · by_cases hpcr : 1 ≤ n.toNat ∧ flags.extractLsb' 4 1 = 1#1
    · by_cases h7 : n.toNat < 7
      · simp [hmost, hpcr, h7]
      · simp [hmost, hpcr, h7]
    · simp [hmost, hpcr]

/-- Settles O26: what a packet comes to is what its adaptation field comes to (`adaptation_eq`), and ROUTE is the row of the
PID's slot. -/
theorem packetsAreRoutedByTheirFields : Obligations.PacketsAreRoutedByTheirFields := by
  intro h n flags p0 p1 p2 p3 p4 p5 rest s hm body malformed routed hasPcr
  have hadapt : exec (.tsAdapt h body) s = inUnit (adaptPacket h body) s := rfl
  have hboth : exec (.tsAdaptPayload h body) s = inUnit (adaptPayloadPacket h body) s := rfl
  have hrouted : ∀ pcr payload, routed pcr payload
      (.next (route { pid := h.pid, pusi := h.pusi, cc := h.cc, pcr := pcr, payload := payload } s)) :=
    fun pcr payload =>
      ⟨_, rfl, exec_routeRow_formAt hm { pid := h.pid, pusi := h.pusi, cc := h.cc, pcr := pcr, payload := payload }⟩
  have hraise : .next (raise (.x04 h.pid) s) = malformed := congrArg _ (raise_recoverable rfl s)
  rw [hadapt, hboth, inUnit_live hm, inUnit_live hm, adaptPacket, adaptPayloadPacket, adaptation_eq, adaptation_eq]
  refine ⟨inUnit_raise hm rfl, ?_, fun hbad => ?_, fun hbad => ?_, fun hn hno => ?_, fun hn hno => ?_,
    fun pcr hbase hext => ⟨fun h7 hn hpcr => ?_, fun h7 hn hpcr => ?_⟩⟩
  · show routed none (some body) (inUnit (payloadPacket h body) s)
    rw [inUnit_live hm]
    exact hrouted none (some body)
  · rw [if_pos hbad]; exact hraise
  · rw [if_pos hbad]; exact hraise
  · rw [if_neg (not_or.mpr ⟨by omega, fun hshort => hno hshort.1⟩), if_neg hno]; exact hrouted _ _
  · rw [if_neg (not_or.mpr ⟨by omega, fun hshort => hno hshort.1⟩), if_neg hno]; exact hrouted _ _
  · rw [if_neg (by omega), if_pos hpcr, pcrOf_eq hbase hext]; exact hrouted _ _
  · rw [if_neg (by omega), if_pos hpcr, pcrOf_eq hbase hext]; exact hrouted _ _

/-! ## Parity datagrams (R118, R321, R322, R366) -/

/-- R321's checks on the bytes of a datagram. -/
theorem fecBad_iff {g : Bytes} :
    fecBad g = true ↔ g.length < 28 ∨ g.head? ≠ some 0x80#8 ∨ g[25]? = some 0#8 ∨ g[26]? = some 0#8 := by
  by_cases hlen : g.length < 28
  · simp [fecBad, hlen]
  · have hshort : ¬ g.length < 12 := by omega
    obtain ⟨v, rest, rfl⟩ := List.exists_cons_of_ne_nil (l := g) (by rintro rfl; simp at hlen)
    have hat : ∀ i, i < 28 → ((v :: rest).getD i 0 = 0#8 ↔ (v :: rest)[i]? = some 0#8) := fun i hi => by
      rw [List.getD_eq_getElem?_getD, List.getElem?_eq_getElem (by omega), Option.getD_some, Option.some.injEq]
    simp only [fecBad, rtpBad, hlen, hshort, decide_false, Bool.false_or, Bool.or_false, Bool.or_eq_true, bne_iff_ne,
      beq_iff_eq, hat 25 (by decide), hat 26 (by decide), List.headD_cons, List.head?_cons, ne_eq, Option.some.injEq,
      false_or, or_assoc]

theorem fecOn_iff (s : State) : fecOn s = true ↔ s.cfg.extractLsb' 2 1 = 1#1 := getLsbD_eq_true_iff s.cfg 2

theorem sizeChecked_fits {port : Port} {g : Bytes} {s : State} (h : g.length ≤ s.params.fecSlotBytes)
    (act : State → State) : sizeChecked port g act s = act s := by
  rw [sizeChecked, if_neg (by omega)]

/-- Settles O55: a datagram that FEC.PARSE reads is its FEC row; the others are those of R322. -/
theorem parityDatagramsAreCheckedThenTaken : Obligations.ParityDatagramsAreCheckedThenTaken := by
  intro u g s hnet hcfg dropped
  have hm : s.mode ≠ .fatal := by simp [hnet]
  have hlegal : (s.mode == .net && fecOn s) = true := by simp [hnet, (fecOn_iff s).mpr hcfg]
  have hcol : ∀ {g}, g.length ≤ s.params.fecSlotBytes → exec (.dgramCol g) s = .next (parityDgram .col g s) := by
    intro g hlen
    show execDgramCol g s = _
    rw [execDgramCol, hlegal, command_legal hm, sizeChecked_fits hlen]
  have hrow : ∀ {g}, g.length ≤ s.params.fecSlotBytes → exec (.dgramRow g) s = .next (parityDgram .row g s) := by
    intro g hlen
    show execDgramRow g s = _
    rw [execDgramRow, hlegal, command_legal hm, sizeChecked_fits hlen]
  refine ⟨fun hlen hoff hna => ?_, fun hlen hbad => ?_, inUnit_raise hm rfl, inUnit_raise hm rfl, inUnit_raise hm rfl,
    inUnit_raise hm rfl⟩
  · have htaken : ∀ port, parityDgram port (fecBytes u) s = fecParity (parityRec port u) s := fun port => by
      rw [parityDgram, parseFec_fecBytes hoff hna]
    rw [hcol hlen, hrow hlen, htaken, htaken]
    exact ⟨⟨_, rfl, inUnit_live hm _⟩, ⟨_, rfl, inUnit_live hm _⟩⟩
  · have hdropped : ∀ port, .next (parityDgram port g s) = dropped port := fun port => by
      rw [parityDgram, parseFec_eq_none_iff.mpr (fecBad_iff.mpr hbad)]
      exact congrArg _ (raise_recoverable rfl s)
    rw [hcol hlen, hrow hlen]
    exact ⟨hdropped .col, hdropped .row⟩

end Sys2Proof.Machine
end

section
/-! PROOFS. What a parse answers on a layout, and on a layout cut short: said once per part of a layout, by the number its
bits make (R14, R132, R276). -/

namespace Sys2Proof.Machine

/-! ## Bits ahead of the cursor -/

/-- As many of the `n` bits of `v` as the buffer still holds stand at the cursor. -/
def Shows (b : BitReader) (n v : Nat) : Prop :=
  ∀ k ≤ n, b.pos + k ≤ 8 * b.buf.length → bitsAt b.buf b.pos k = v / 2 ^ (n - k)

/-- The parse reads `n` bits: where they are those of `v` it answers `a` with the cursor past them, and where the buffer
ends among them it is an underrun. -/
def Reads {α : Type} (p : Parse α) (n v : Nat) (a : α) : Prop :=
  v < 2 ^ n ∧ ∀ b : BitReader, b.pos ≤ 8 * b.buf.length → Shows b n v →
    p b = if b.pos + n ≤ 8 * b.buf.length then some (a, ⟨b.buf, b.pos + n⟩) else none

/-- A number's first digits, when others follow. -/
theorem mul_add_div_pow {x y m n k : Nat} (hy : y < 2 ^ n) (hk : k ≤ m) :
    (x * 2 ^ n + y) / 2 ^ (m + n - k) = x / 2 ^ (m - k) := by
  rw [show m + n - k = n + (m - k) by omega, Nat.pow_add, ← Nat.div_div_eq_div_mul, Nat.mul_comm x,
    Nat.mul_add_div (by positivity), Nat.div_eq_of_lt hy, Nat.add_zero]

/-- Of two fields, the first stands at the cursor. -/
theorem Shows.fst {b : BitReader} {m n x y : Nat} (h : Shows b (m + n) (x * 2 ^ n + y)) (hy : y < 2 ^ n) : Shows b m x :=
  fun k hk hin => by rw [h k (by omega) hin, mul_add_div_pow hy hk]

/-- Of two fields, the second stands past the first. -/
theorem Shows.snd {b : BitReader} {m n x y : Nat} (h : Shows b (m + n) (x * 2 ^ n + y)) (hy : y < 2 ^ n) :
    Shows ⟨b.buf, b.pos + m⟩ n y := by
  intro k hk hin
  simp only at hin ⊢
  have hfst : bitsAt b.buf b.pos m = x := by simpa using h.fst hy m le_rfl (by omega)
  have hboth := h (m + k) (by omega) (by omega)
  obtain ⟨j, rfl⟩ := Nat.exists_eq_add_of_le hk
  rw [bitsAt_add, hfst, show m + (k + j) - (m + k) = j by omega, Nat.pow_add, ← Nat.mul_assoc, Nat.mul_comm _ (2 ^ j),
    Nat.mul_add_div (by positivity)] at hboth
  rw [Nat.add_sub_cancel_left]
  omega

/-! ## The parses of fields -/

theorem reads_readP {w : Nat} (v : BitVec w) : Reads (readP w) w v.toNat v := by
  refine ⟨v.isLt, fun b _ hv => ?_⟩
  rw [readP_eq]
  split
  · next hin =>
    have hbits := hv w le_rfl hin
    rw [Nat.sub_self, Nat.pow_zero, Nat.div_one] at hbits
    rw [hbits, BitVec.ofNat_toNat, BitVec.setWidth_eq]
  · rfl

theorem reads_skipP {n : Nat} (v : BitVec n) : Reads (skipP n) n v.toNat () := ⟨v.isLt, fun b _ _ => skipP_eq n b⟩

theorem reads_pureP {α : Type} (a : α) : Reads (pureP a) 0 0 a :=
  ⟨by simp, fun b hb _ => by rw [if_pos (by omega)]; rfl⟩

/-- One part after another. -/
theorem Reads.bind {α β : Type} {p : Parse α} {f : α → Parse β} {m x n y : Nat} {a : α} {c : β} (hp : Reads p m x a)
    (hf : Reads (f a) n y c) : Reads (bindP p f) (m + n) (x * 2 ^ n + y) c := by
  obtain ⟨hx, hp⟩ := hp
  obtain ⟨hy, hf⟩ := hf
  refine ⟨?_, fun b hb hv => ?_⟩
  · calc x * 2 ^ n + y < (x + 1) * 2 ^ n := by rw [Nat.add_mul]; omega
      _ ≤ 2 ^ m * 2 ^ n := Nat.mul_le_mul_right _ hx
      _ = 2 ^ (m + n) := (Nat.pow_add 2 m n).symm
  · rw [bindP, hp b hb (hv.fst hy)]
    by_cases hin : b.pos + m ≤ 8 * b.buf.length
    · rw [if_pos hin]
      simp only
      rw [hf ⟨b.buf, b.pos + m⟩ hin (hv.snd hy), Nat.add_assoc]
    · rw [if_neg hin, if_neg (by omega)]

/-- The same bits, written in another way. -/
theorem Reads.of_eq {α : Type} {p : Parse α} {n n' v v' : Nat} {a : α} (h : Reads p n v a) (hn : n = n') (hv : v = v') :
    Reads p n' v' a := hn ▸ hv ▸ h

/-! ## The parses of bytes -/

/-- The parse reads the bytes of a layout. -/
def ReadsBytes {α : Type} (p : Parse α) (bs : Bytes) (a : α) : Prop := Reads p (8 * bs.length) (beNat bs) a

theorem beNat_append (xs ys : Bytes) : beNat (xs ++ ys) = beNat xs * 2 ^ (8 * ys.length) + beNat ys := by
  rw [beNat, List.foldl_append, foldl_beNat]
  rfl

theorem ReadsBytes.bind {α β : Type} {p : Parse α} {f : α → Parse β} {xs ys : Bytes} {a : α} {c : β}
    (hp : ReadsBytes p xs a) (hf : ReadsBytes (f a) ys c) : ReadsBytes (bindP p f) (xs ++ ys) c :=
  (Reads.bind hp hf).of_eq (by rw [List.length_append, Nat.mul_add]) (beNat_append xs ys).symm

theorem readsBytes_pureP {α : Type} (a : α) : ReadsBytes (pureP a) [] a := reads_pureP a

/-- A last step that reads nothing. -/
theorem ReadsBytes.map {α β : Type} {p : Parse α} {bs : Bytes} {a : α} (h : ReadsBytes p bs a) (f : α → β) :
    ReadsBytes (bindP p fun a => pureP (f a)) bs (f a) := by
  have hboth := h.bind (f := fun a => pureP (f a)) (readsBytes_pureP (f a))
  rwa [List.append_nil] at hboth

theorem readsBytes_readP (b : Byte) : ReadsBytes (readP 8) [b] b := (reads_readP b).of_eq rfl (by simp [beNat_cons])

theorem beNat_be16 (w : BitVec 16) : beNat (be16 w) = w.toNat := by
  simp only [be16, beNat_cons, beNat_nil, toNat_extractLsb'_digits, List.length_cons, List.length_nil]
  omega

theorem beNat_be24 (w : BitVec 24) : beNat (be24 w) = w.toNat := by
  simp only [be24, beNat_cons, beNat_nil, toNat_extractLsb'_digits, List.length_cons, List.length_nil]
  omega

theorem beNat_be32 (w : BitVec 32) : beNat (be32 w) = w.toNat := by
  simp only [be32, beNat_cons, beNat_nil, toNat_extractLsb'_digits, List.length_cons, List.length_nil]
  omega

theorem beNat_be40 (w : BitVec 40) : beNat (be40 w) = w.toNat := by
  simp only [be40, beNat_cons, beNat_nil, toNat_extractLsb'_digits, List.length_cons, List.length_nil]
  omega

theorem shows_bytes (pre bs post : Bytes) : Shows ⟨pre ++ bs ++ post, 8 * pre.length⟩ (8 * bs.length) (beNat bs) := by
  intro k hk hin
  simp only at hin ⊢
  have hpost : 8 * (pre ++ bs ++ post).length - 8 * pre.length - k = 8 * bs.length + 8 * post.length - k := by
    simp only [List.length_append]; omega
  rw [bitsAt_eq_digits hin, hpost, beNat_append, mul_add_div_pow (beNat_lt post) hk, beNat_append]
  obtain ⟨j, hj⟩ : ∃ j, 8 * bs.length = k + j := ⟨_, (Nat.add_sub_cancel' hk).symm⟩
  rw [hj, Nat.add_sub_cancel_left, Nat.pow_add, ← Nat.mul_assoc, Nat.mul_comm _ (2 ^ j), Nat.mul_add_div (by positivity),
    Nat.mul_comm, Nat.mul_add_mod, Nat.mod_eq_of_lt]
  rw [Nat.div_lt_iff_lt_mul (by positivity), ← Nat.pow_add, ← hj]
  exact beNat_lt bs

/-- A layout inside a buffer is read, and the cursor stands at its end. -/
theorem ReadsBytes.run {α : Type} {p : Parse α} {bs : Bytes} {a : α} (h : ReadsBytes p bs a) (pre post : Bytes) :
    p ⟨pre ++ bs ++ post, 8 * pre.length⟩ = some (a, ⟨pre ++ bs ++ post, 8 * (pre.length + bs.length)⟩) := by
  have hlen : (pre ++ bs ++ post).length = pre.length + bs.length + post.length := by simp only [List.length_append]
  rw [h.2 _ (by simp only [hlen]; omega) (shows_bytes pre bs post), if_pos (by simp only [hlen]; omega), Nat.mul_add]

/-- A layout cut short at the end of the buffer is an underrun (R276). -/
theorem ReadsBytes.cut {α : Type} {p : Parse α} {bs : Bytes} {a : α} (h : ReadsBytes p bs a) (pre : Bytes) {n : Nat}
    (hn : n < bs.length) : p ⟨pre ++ bs.take n, 8 * pre.length⟩ = none := by
  have hlen : (pre ++ bs.take n).length = pre.length + n := by
    rw [List.length_append, List.length_take, min_eq_left hn.le]
  have hshows : Shows ⟨pre ++ bs.take n, 8 * pre.length⟩ (8 * bs.length) (beNat bs) := by
    intro k hk hin
    simp only [hlen] at hin
    have htake := shows_bytes pre (bs.take n) [] k
    have hdrop : 8 * bs.length = 8 * (bs.take n).length + 8 * (bs.drop n).length := by
      rw [List.length_take, List.length_drop]; omega
    have hsplit := beNat_append (bs.take n) (bs.drop n)
    rw [List.take_append_drop] at hsplit
    have hkn : k ≤ 8 * (bs.take n).length := by rw [List.length_take]; omega
    rw [List.append_nil] at htake
    rw [htake hkn (by simp only [hlen]; omega), hsplit, hdrop, mul_add_div_pow (beNat_lt _) hkn]
  rw [h.2 _ (by simp only [hlen]; omega) hshows, if_neg (by simp only [hlen]; omega)]

end Sys2Proof.Machine
end

section
/-! PROOFS. The layouts of splice times, components, durations and splice_insert bodies are read back by their parses (R104 to
R106, R261 to R269), and the INSERT and SPLICE_TIME rows answer what is read. -/

namespace Sys2Proof.Machine

/-! ## Splice times (R105, R261) -/

theorem reads_specifiedTime (res : BitVec 6) (pts : BitVec 33) :
    ReadsBytes spliceTimeP (be40 (1#1 ++ res ++ pts)) (.timed (some pts)) := by
  unfold ReadsBytes spliceTimeP
  refine Reads.of_eq (.bind (reads_readP 1#1) (.bind (reads_skipP res) (.bind (reads_readP pts) (reads_pureP _)))) rfl ?_
  rw [beNat_be40]
  simp only [toNat_append_mul]
  omega

theorem reads_unspecifiedTime (res : BitVec 7) : ReadsBytes spliceTimeP [0#1 ++ res] (.timed none) := by
  unfold ReadsBytes spliceTimeP
  refine Reads.of_eq (.bind (reads_readP 0#1) (.bind (reads_skipP res) (reads_pureP _))) rfl ?_
  simp only [beNat_cons, beNat_nil, List.length_nil, toNat_append_mul]
  omega

/-- A time under its own flag: an immediate one has no bytes (R266). -/
theorem reads_time (res : BitVec 7) (t : SpliceTime) :
    ReadsBytes (timeUnlessImmediateP (timeFlag t)) (timeBytes res t) t := by
  match t with
  | .immediate => exact readsBytes_pureP _
  | .timed none => exact reads_unspecifiedTime res
  | .timed (some pts) => exact reads_specifiedTime _ pts

/-! ## Components and the splice mode (R266, R267) -/

theorem reads_components (res : BitVec 7) {sif : BitVec 1} {cs : List SpliceComponent}
    (h : ∀ c ∈ cs, timeFlag c.time = sif) :
    ReadsBytes (componentListP sif cs.length) (cs.flatMap (componentBytes res)) cs := by
  induction cs with
  | nil => exact readsBytes_pureP _
  | cons c rest ih =>
    obtain ⟨hc, hrest⟩ := List.forall_mem_cons.mp h
    have htime := reads_time res c.time
    rw [hc] at htime
    exact .bind (xs := [c.tag]) (readsBytes_readP c.tag) (htime.bind ((ih hrest).map _))

/-- The flag of an encodable component list is the flag of each of its times. -/
theorem timeFlag_eq_immediateFlag {dflt : BitVec 1} {cs : List SpliceComponent}
    (h : modeEncodable (.components cs) = true) :
    cs.length ≤ 255 ∧ ∀ c ∈ cs, timeFlag c.time = immediateFlag dflt (.components cs) := by
  simp only [modeEncodable, Bool.and_eq_true, Bool.or_eq_true, List.all_eq_true, decide_eq_true_eq, beq_iff_eq,
    bne_iff_ne] at h
  obtain ⟨hlen, hall⟩ := h
  refine ⟨hlen, ?_⟩
  cases cs with
  | nil => simp
  | cons c₀ rest =>
    intro c hc
    obtain hnow | hlater := hall
    · simp only [immediateFlag, timeFlag, hnow c hc, hnow c₀ List.mem_cons_self]
    · simp only [immediateFlag, timeFlag, hlater c hc, hlater c₀ List.mem_cons_self]

theorem reads_mode (res : BitVec 7) (dflt : BitVec 1) {m : SpliceMode} (h : modeEncodable m = true) :
    ReadsBytes (spliceModeP (modeFlag m) (immediateFlag dflt m)) (modeBytes res m) m := by
  cases m with
  | program t => exact (reads_time res t).map _
  | components cs =>
    obtain ⟨hlen, hflags⟩ := timeFlag_eq_immediateFlag (dflt := dflt) h
    have hlist := reads_components res hflags
    have hcount : (BitVec.ofNat 8 cs.length).toNat = cs.length := by rw [BitVec.toNat_ofNat]; omega
    refine .bind (xs := [BitVec.ofNat 8 cs.length]) (readsBytes_readP _) ?_
    rw [hcount]
    exact hlist.map _

/-! ## The break duration (R106, R268) -/

theorem reads_durationP (ar : BitVec 1) (res : BitVec 6) (d : BitVec 33) :
    ReadsBytes durationP (be40 (ar ++ res ++ d)) { returnMode := if ar = 1#1 then .automatic else .manual, duration := d } := by
  unfold ReadsBytes durationP
  refine Reads.of_eq (.bind (reads_readP ar) (.bind (reads_skipP res) (.bind (reads_readP d) (reads_pureP _)))) rfl ?_
  rw [beNat_be40]
  simp only [toNat_append_mul]
  omega

theorem reads_duration (res : BitVec 7) (d : SpliceDuration) : ReadsBytes durationP (durationBytes res d) d := by
  obtain ⟨mode, dur⟩ := d
  cases mode with
  | automatic | manual => exact reads_durationP _ _ dur

theorem reads_optDuration (res : BitVec 7) (d : Option SpliceDuration) :
    ReadsBytes (optDurationP (durationFlag d)) (optDurationBytes res d) d := by
  cases d with
  | none => exact readsBytes_pureP _
  | some d => exact (reads_duration res d).map _

/-! ## splice_insert bodies (R104, R264, R265) -/

theorem readsBytes_readP16 (w : BitVec 16) : ReadsBytes (readP 16) (be16 w) w :=
  (reads_readP w).of_eq rfl (beNat_be16 w).symm

/-- The byte of cancel_indicator (R104). -/
def cancelByte (cancel : BitVec 1) (res : BitVec 7) : Byte := cancel ++ res

theorem cancelByte_toNat (cancel : BitVec 1) (res : BitVec 7) :
    (cancelByte cancel res).toNat = cancel.toNat * 2 ^ 7 + res.toNat := toNat_append_mul cancel res

/-- The flag byte of a body (R104). -/
def flagByte (res : BitVec 7) (dflt : BitVec 1) (d : InsertDetail) : Byte :=
  networkFlag d.networkIndicator ++ modeFlag d.spliceMode ++ durationFlag d.duration ++
    immediateFlag dflt d.spliceMode ++ res.extractLsb' 0 4

/-- A body that is not cancelled up to its flags, then whatever bytes follow them (R104). -/
def bodyWith (res : BitVec 7) (dflt : BitVec 1) (eventId : BitVec 32) (d : InsertDetail) (rest : Bytes) : Bytes :=
  be32 eventId ++ (cancelByte 0#1 res :: flagByte res dflt d :: rest)

theorem insertBytes_eq (res : BitVec 7) (dflt : BitVec 1) (eventId : BitVec 32) (d : InsertDetail) (rest : Bytes) :
    insertBytes (modeFlag d.spliceMode) (durationFlag d.duration) (immediateFlag dflt d.spliceMode)
        { eventId := eventId, reserved := res, networkIndicator := networkFlag d.networkIndicator
          reserved2 := res.extractLsb' 0 4, rest := rest } = bodyWith res dflt eventId d rest := by
  simp only [insertBytes, bodyWith, flagByte, cancelByte, List.append_assoc, List.cons_append, List.nil_append]

theorem insertBody_eq (res : BitVec 7) (dflt : BitVec 1) (eventId : BitVec 32) (d : InsertDetail) :
    insertBody res dflt eventId d = bodyWith res dflt eventId d (insertRest res d) := insertBytes_eq res dflt eventId d _

theorem bodyWith_append (res : BitVec 7) (dflt : BitVec 1) (eventId : BitVec 32) (d : InsertDetail) (rest tail : Bytes) :
    bodyWith res dflt eventId d (rest ++ tail) = bodyWith res dflt eventId d rest ++ tail := by
  simp only [bodyWith, List.append_assoc, List.cons_append]

theorem bodyWith_take (res : BitVec 7) (dflt : BitVec 1) (eventId : BitVec 32) (d : InsertDetail) (rest : Bytes) (n : Nat) :
    bodyWith res dflt eventId d (rest.take n) = (bodyWith res dflt eventId d rest).take (6 + n) := by
  rw [Nat.add_comm]
  rfl

theorem length_bodyWith (res : BitVec 7) (dflt : BitVec 1) (eventId : BitVec 32) (d : InsertDetail) (rest : Bytes) :
    (bodyWith res dflt eventId d rest).length = 6 + rest.length := by
  simp only [bodyWith, be32, List.length_append, List.length_cons, List.length_nil]
  omega

/-- What a body's flags and the bytes after them make. -/
theorem beNat_bodyWith (res : BitVec 7) (dflt : BitVec 1) (eventId : BitVec 32) (d : InsertDetail) (rest : Bytes) :
    beNat (bodyWith res dflt eventId d rest) =
      (((eventId ++ (0#1 ++ res)).toNat * 2 ^ 8 + (flagByte res dflt d).toNat)) * 2 ^ (8 * rest.length) + beNat rest := by
  simp only [bodyWith, beNat_append, beNat_be32, beNat_cons, cancelByte_toNat, toNat_append_mul, Nat.pow_add,
    List.length_cons, Nat.mul_add, Nat.mul_one]
  ring

/-- The flags, then the parts that they select. -/
theorem reads_detail (res : BitVec 7) (dflt : BitVec 1) {d : InsertDetail} (h : modeEncodable d.spliceMode = true) :
    ReadsBytes insertDetailP (flagByte res dflt d :: insertRest res d) d := by
  obtain ⟨ni, mode, dur, upid, an, ae⟩ := d
  have hnetwork : (if networkFlag ni = 1#1 then NetworkIndicator.outward else .inward) = ni := by cases ni <;> rfl
  have hbytes : insertRest res ⟨ni, mode, dur, upid, an, ae⟩ =
      modeBytes res mode ++ (optDurationBytes res dur ++ (be16 upid ++ ([an] ++ [ae]))) := by
    simp only [insertRest, List.append_assoc, List.cons_append, List.nil_append]
  rw [hbytes]
  conv => arg 3; rw [← hnetwork]
  unfold ReadsBytes insertDetailP
  refine Reads.of_eq (.bind (reads_readP (networkFlag ni)) (.bind (reads_readP (modeFlag mode))
    (.bind (reads_readP (durationFlag dur)) (.bind (reads_readP (immediateFlag dflt mode))
      (.bind (reads_skipP (res.extractLsb' 0 4)) (ReadsBytes.bind (reads_mode res dflt h)
        (.bind (reads_optDuration res dur) (.bind (readsBytes_readP16 upid) (.bind (readsBytes_readP an)
          (.map (readsBytes_readP ae) _)))))))))) ?_ ?_
  · simp only [List.length_cons]
    omega
  · simp only [beNat_cons, flagByte, toNat_append_mul, Nat.pow_add]
    ring

/-- A body that is not cancelled is read as its value (R264). -/
theorem reads_insertBody (res : BitVec 7) (dflt : BitVec 1) (eventId : BitVec 32) {d : InsertDetail}
    (h : modeEncodable d.spliceMode = true) :
    ReadsBytes insertP (insertBody res dflt eventId d) (.spliceInsert eventId (some d)) := by
  rw [insertBody_eq]
  unfold ReadsBytes insertP
  refine Reads.of_eq (.bind (reads_readP eventId) (.bind (reads_readP 0#1) (.bind (reads_skipP res)
    (ReadsBytes.map (reads_detail res dflt h) _)))) ?_ ?_
  · rw [length_bodyWith, List.length_cons]
    omega
  · simp only [beNat_bodyWith, beNat_cons, toNat_append_mul, Nat.pow_add, List.length_cons, Nat.mul_add, Nat.mul_one]
    ring

theorem insertCancelBytes_eq (eventId : BitVec 32) (res : BitVec 7) (rest : Bytes) :
    insertCancelBytes eventId res rest = be32 eventId ++ (cancelByte 1#1 res :: rest) := by
  simp only [insertCancelBytes, cancelByte, List.append_assoc, List.cons_append, List.nil_append]

/-- A cancelled body is its first five bytes (R265). -/
theorem reads_insertCancel (res : BitVec 7) (eventId : BitVec 32) :
    ReadsBytes insertP (insertCancelBytes eventId res []) (.spliceInsert eventId none) := by
  unfold ReadsBytes insertP
  refine Reads.of_eq (.bind (reads_readP eventId) (.bind (reads_readP 1#1) (.bind (reads_skipP res) (reads_pureP _))))
    rfl ?_
  simp only [insertCancelBytes_eq, beNat_append, beNat_be32, beNat_cons, cancelByte_toNat, beNat_nil, List.length_cons,
    List.length_nil]
  omega

/-- The part of a body up to the end of its break duration. -/
def durationPrefix (res : BitVec 7) (dflt : BitVec 1) (eventId : BitVec 32) (d : InsertDetail) (dur : SpliceDuration) :
    Bytes :=
  bodyWith res dflt eventId d (modeBytes res d.spliceMode ++ durationBytes res dur)

/-- The break duration is read past the time part (R268). -/
theorem reads_insertDuration (res : BitVec 7) (dflt : BitVec 1) (eventId : BitVec 32) {d : InsertDetail}
    (h : modeEncodable d.spliceMode = true) (dur : SpliceDuration) :
    ReadsBytes insertDurationP (durationPrefix res dflt eventId d dur) dur := by
  unfold ReadsBytes insertDurationP durationPrefix
  refine Reads.of_eq (.bind (reads_skipP (eventId ++ (0#1 ++ res))) (.bind (reads_skipP (networkFlag d.networkIndicator))
    (.bind (reads_readP (modeFlag d.spliceMode)) (.bind (reads_skipP (durationFlag d.duration))
      (.bind (reads_readP (immediateFlag dflt d.spliceMode)) (.bind (reads_skipP (res.extractLsb' 0 4))
        (ReadsBytes.bind (reads_mode res dflt h) (reads_duration res dur)))))))) ?_ ?_
  · rw [length_bodyWith, List.length_append]
    omega
  · simp only [beNat_bodyWith, beNat_append, flagByte, toNat_append_mul, Nat.pow_add, List.length_append, Nat.mul_add]
    ring

/-! ## The INSERT and SPLICE_TIME rows (log entry 8) -/

/-- A unit that begins with its layout: the answer, and the cursor at the layout's end. -/
theorem runParse_reads {α : Type} {p : Parse α} {bs : Bytes} {a : α} (h : ReadsBytes p bs a) (src : Option Pid)
    (tail : Bytes) (answer : α → UnitResult) {s : State} (hm : s.mode ≠ .fatal) :
    inUnit (runParse src (bs ++ tail) p answer) s =
      .next { s with br := { buf := bs ++ tail, pos := 8 * bs.length }, result := answer a } := by
  have hrun := h.run [] tail
  simp only [List.nil_append, List.length_nil, Nat.mul_zero, Nat.zero_add] at hrun
  rw [inUnit_live hm, runParse_spec, hrun]

/-- A unit that ends inside its layout: X11, and neither reader nor answer (R276). -/
theorem runParse_cut {α : Type} {p : Parse α} {bs : Bytes} {a : α} (h : ReadsBytes p bs a) (src : Option Pid) {n : Nat}
    (hn : n < bs.length) (answer : α → UnitResult) {s : State} (hm : s.mode ≠ .fatal) :
    inUnit (runParse src (bs.take n) p answer) s =
      .next { s with br := { buf := [], pos := 0 }, result := .none, events := s.events ++ [.exn (.x11 src)] } := by
  have hcut := h.cut [] hn
  simp only [List.nil_append, List.length_nil, Nat.mul_zero] at hcut
  rw [inUnit_live hm, runParse_spec, hcut]
  rfl

/-- The five bytes of a splice_time with a pts_time (R105). -/
theorem specifiedTime_bytes (res : BitVec 6) (msb : BitVec 1) (b3 b2 b1 b0 : Byte) :
    be40 (1#1 ++ res ++ (msb ++ b3 ++ b2 ++ b1 ++ b0)) = [1#1 ++ res ++ msb, b3, b2, b1, b0] := by
  rw [← be40_append]
  exact congrArg be40 (BitVec.eq_of_toNat_eq (by simp only [toNat_append_mul]; omega))

/-- Settles O45. -/
theorem spliceTimeFormsAreRead : Obligations.SpliceTimeFormsAreRead := by
  intro src res res7 msb b3 b2 b1 b0 rest s hm
  refine ⟨?_, fun hshort => ?_, ?_⟩
  · have hread := reads_specifiedTime res (msb ++ b3 ++ b2 ++ b1 ++ b0)
    rw [specifiedTime_bytes] at hread
    exact runParse_reads hread src rest .time hm
  · have hfour : (rest ++ List.replicate (4 - rest.length) 0#8).length = 4 := by
      rw [List.length_append, List.length_replicate]; omega
    obtain ⟨c3, c2, c1, c0, hpad⟩ := List.length_eq_four.mp hfour
    have hread := reads_specifiedTime res (msb ++ c3 ++ c2 ++ c1 ++ c0)
    rw [specifiedTime_bytes, ← hpad] at hread
    have hcut := runParse_cut hread src (n := rest.length + 1)
      (by rw [List.length_cons, hfour]; omega) .time hm
    rwa [List.take_succ_cons, List.take_left] at hcut
  · exact runParse_reads (reads_unspecifiedTime res7) src rest .time hm

/-- The break duration ends four bytes before the body does (R104). -/
theorem insertBody_eq_durationPrefix (res : BitVec 7) (dflt : BitVec 1) (eventId : BitVec 32) {d : InsertDetail}
    {dur : SpliceDuration} (h : d.duration = some dur) :
    insertBody res dflt eventId d =
      durationPrefix res dflt eventId d dur ++ (be16 d.uniqueProgramId ++ [d.availNum, d.availsExpected]) := by
  simp only [insertBody_eq, durationPrefix, insertRest, h, optDurationBytes, ← bodyWith_append, List.append_assoc]

theorem length_durationPrefix (res : BitVec 7) (dflt : BitVec 1) (eventId : BitVec 32) {d : InsertDetail}
    {dur : SpliceDuration} (h : d.duration = some dur) :
    (insertBody res dflt eventId d).length = (durationPrefix res dflt eventId d dur).length + 4 := by
  rw [insertBody_eq_durationPrefix res dflt eventId h, List.length_append]
  rfl

/-- Settles O44: each row's bytes are the body's (`insertBytes_eq`), whole or cut, and the parses read them. -/
theorem insertRowsParseTheirLayout : Obligations.InsertRowsParseTheirLayout := by
  intro src res sif eventId d tail s hm henc imm unitWith buf df formEnds durationEnds short
  have hbody := reads_insertBody res sif eventId henc
  have hform : ∀ rest o,
      inUnit (runParse src (bodyWith res sif eventId d rest) insertP .command) s = o → formEnds (unitWith rest) o := by
    intro rest o h
    rw [← insertBytes_eq] at h
    refine ⟨fun hp hi => ?_, fun hp hi => ?_, fun hp hi => ?_, fun hp hi => ?_⟩
    all_goals
      rw [hp, show immediateFlag sif d.spliceMode = _ from hi] at h
      exact h
  have hdur : ∀ dur rest o, d.duration = some dur →
      inUnit (runParse src (bodyWith res sif eventId d rest) insertDurationP .duration) s = o →
        durationEnds (unitWith rest) o := by
    intro dur rest o hd h
    rw [← insertBytes_eq, hd] at h
    exact h
  refine ⟨?_, hform _ _ ?_, fun dur hd => hdur dur _ _ hd ?_, fun n hn => ⟨hform _ _ ?_, fun hsome hn4 => ?_⟩⟩
  · have hrow := runParse_reads (reads_insertCancel res eventId) src tail .command hm
    simp only [insertCancelBytes, List.append_nil] at hrow
    exact hrow
  · rw [bodyWith_append, ← insertBody_eq]
    exact runParse_reads hbody src tail .command hm
  · have hrow := runParse_reads (reads_insertDuration res sif eventId henc dur) src
      (be16 d.uniqueProgramId ++ [d.availNum, d.availsExpected] ++ tail) .duration hm
    rw [← List.append_assoc, ← insertBody_eq_durationPrefix res sif eventId hd] at hrow
    rw [bodyWith_append, ← insertBody_eq, hrow, length_durationPrefix res sif eventId hd]
    rfl
  · rw [bodyWith_take, ← insertBody_eq]
    exact runParse_cut hbody src (by rw [insertBody_eq, length_bodyWith]; omega) .command hm
  · obtain ⟨dur, hd⟩ := Option.ne_none_iff_exists'.mp hsome
    have hlen := length_durationPrefix res sif eventId hd
    rw [insertBody_eq, length_bodyWith] at hlen
    refine hdur dur _ _ hd ?_
    rw [bodyWith_take, ← insertBody_eq, insertBody_eq_durationPrefix res sif eventId hd,
      List.take_append_of_le_length (by omega)]
    exact runParse_cut (reads_insertDuration res sif eventId henc dur) src (by omega) .duration hm

end Sys2Proof.Machine
end

section
/-! PROOFS. SPLICE_INSERT (R264): the header and the body are read from the section's bytes, the annotation is computed, and the
descriptor loop follows where the command ends. -/

namespace Sys2Proof.Machine

/-! ## The header (R252) -/

/-- Bytes 3 to 13 of a splice section. -/
def headerBytes (enc : BitVec 1) (ty : Byte) (u : SpliceUnit) : Bytes :=
  u.protocolVersion :: (be40 (enc ++ u.encryptionAlgorithm ++ u.ptsAdjustment) ++
    (u.cwIndex :: (be24 (u.tier ++ u.commandLength) ++ [ty])))

theorem spliceBytes_eq (enc : BitVec 1) (ty : Byte) (u : SpliceUnit) :
    spliceBytes enc ty u = (u.tableId :: be16 (sectionWord u.common)) ++ headerBytes enc ty u ++ u.body := by
  simp only [spliceBytes, headerBytes, List.append_assoc, List.cons_append, List.nil_append]

theorem length_be24 (w : BitVec 24) : (be24 w).length = 3 := rfl

theorem length_be40 (w : BitVec 40) : (be40 w).length = 5 := rfl

theorem reads_header (enc : BitVec 1) (ty : Byte) (u : SpliceUnit) :
    ReadsBytes (headerP u.tableId) (headerBytes enc ty u) (unitHeader enc ty u) := by
  unfold ReadsBytes headerP headerBytes
  refine Reads.of_eq (.bind (reads_readP u.protocolVersion) (.bind (reads_readP enc)
    (.bind (reads_readP u.encryptionAlgorithm) (.bind (reads_readP u.ptsAdjustment) (.bind (reads_readP u.cwIndex)
      (.bind (reads_readP u.tier) (.bind (reads_readP u.commandLength) (.bind (reads_readP ty) (reads_pureP _))))))))) rfl ?_
  simp only [beNat_cons, beNat_append, beNat_be40, beNat_be24, beNat_nil, toNat_append_mul, length_be40, length_be24, List.length_cons,
    List.length_append, List.length_nil]
  omega

/-- SPLICE on a unit's own bytes (R250). -/
def unitCall (enc : BitVec 1) (ty : Byte) (u : SpliceUnit) : SpliceCall :=
  { src := u.srcPid, pcr := u.pcr, buf := spliceBytes enc ty u, header := unitHeader enc ty u }

/-- The decode of a section's own bytes starts from its own header (R251, R252). -/
theorem withHeader_spliceBytes (enc : BitVec 1) (ty : Byte) (u : SpliceUnit) (k : SpliceCall → List Event) :
    withHeader u.srcPid u.pcr (spliceBytes enc ty u) k = k (unitCall enc ty u) := by
  have hlen : ¬ (spliceBytes enc ty u).length < 14 := by
    simp only [spliceBytes_eq, headerBytes, be16, be24, be40, List.length_append, List.length_cons, List.length_nil]
    omega
  have hread := (reads_header enc ty u).run (u.tableId :: be16 (sectionWord u.common)) u.body
  rw [← spliceBytes_eq] at hread
  have hfirst : byteAt (spliceBytes enc ty u) 0 = u.tableId := rfl
  rw [withHeader, if_neg hlen, hfirst]
  simp only [brInit]
  rw [show (24 : Nat) = 8 * (u.tableId :: be16 (sectionWord u.common)).length from rfl, hread]
  rfl

/-- The 14 bytes before the body. -/
theorem exists_spliceBytes_prefix (enc : BitVec 1) (ty : Byte) (u : SpliceUnit) :
    ∃ pre : Bytes, pre.length = 14 ∧ spliceBytes enc ty u = pre ++ u.body :=
  ⟨_, rfl, spliceBytes_eq enc ty u⟩

/-! ## Descriptor loops (R109, R280) -/

/-- A loop is read from its own bytes, wherever they stand. -/
theorem descriptorLoop_append (src : Option Pid) (pre body : Bytes) (k : Nat) :
    descriptorLoop src (pre ++ body) (pre.length + k) = descriptorLoop src body k := by
  have hword : u16be (pre ++ body) (pre.length + k) = u16be body k := by
    have hat : ∀ j, byteAt (pre ++ body) (pre.length + j) = byteAt body j := fun j => by
      rw [byteAt, List.getD_append_right _ _ _ _ (by omega), Nat.add_sub_cancel_left, byteAt]
    rw [u16be, hat, Nat.add_assoc, hat, u16be]
  have hdrop : (pre ++ body).drop (pre.length + k + 2) = body.drop (k + 2) := by
    rw [Nat.add_assoc, ← List.drop_drop, List.drop_left]
  rw [descriptorLoop, hword, hdrop]
  simp only [descriptorLoop, List.length_append, Nat.add_assoc, Nat.add_lt_add_iff_left]

theorem entryBytes_cons (d : Byte × Bytes) (ds : List (Byte × Bytes)) :
    entryBytes (d :: ds) = d.1 :: BitVec.ofNat 8 d.2.length :: (d.2 ++ entryBytes ds) := by
  simp only [entryBytes, List.flatMap_cons, List.cons_append]

theorem descriptorEntries_entryBytes (src : Option Pid) {ds : List (Byte × Bytes)} (h : ∀ d ∈ ds, d.2.length ≤ 255)
    {fuel : Nat} (hfuel : (entryBytes ds).length ≤ fuel) :
    descriptorEntries src fuel (entryBytes ds) = ds.map (descriptorEvent src) := by
  induction ds generalizing fuel with
  | nil => cases fuel <;> rfl
  | cons d rest ih =>
    obtain ⟨hd, hrest⟩ := List.forall_mem_cons.mp h
    have hlen : (BitVec.ofNat 8 d.2.length).toNat = d.2.length := by rw [BitVec.toNat_ofNat]; omega
    rw [entryBytes_cons] at hfuel ⊢
    simp only [List.length_cons, List.length_append] at hfuel
    obtain ⟨n, rfl⟩ : ∃ n, fuel = n + 1 := ⟨fuel - 1, by omega⟩
    have hin : ¬ (d.2 ++ entryBytes rest).length < d.2.length := by rw [List.length_append]; omega
    simp only [descriptorEntries, hlen, if_neg hin, List.take_left, List.drop_left, ih hrest (by omega : _ ≤ n)]
    rfl

theorem descriptorLoop_descriptorBytes (src : Option Pid) {ds : List (Byte × Bytes)} (h : descriptorsFit ds) (rest : Bytes) :
    descriptorLoop src (descriptorBytes ds ++ rest) 0 = ds.map (descriptorEvent src) := by
  obtain ⟨hdata, hloop⟩ := h
  have hlen : (descriptorBytes ds).length = 2 + (entryBytes ds).length := by
    simp only [descriptorBytes, be16, List.length_append, List.length_cons, List.length_nil]
  have hword : u16be (descriptorBytes ds ++ rest) 0 = BitVec.ofNat 16 (entryBytes ds).length := be16_word _
  have hnat : (BitVec.ofNat 16 (entryBytes ds).length).toNat = (entryBytes ds).length := by
    rw [BitVec.toNat_ofNat]; omega
  have hdrop : (descriptorBytes ds ++ rest).drop (0 + 2) = entryBytes ds ++ rest := by
    rw [descriptorBytes, List.append_assoc]; rfl
  rw [descriptorLoop, if_neg (by rw [List.length_append]; omega)]
  simp only [hword, hnat]
  rw [if_neg (by rw [List.length_append]; omega), hdrop, List.take_left, descriptorEntries_entryBytes src hdata le_rfl]

/-! ## A self-delimiting command (R257, R258, R276, R277) -/

/-- Where the loop starts: at the declared end, or after the layout when no length is declared; both counted from the
body's first byte. -/
def commandEnd (h : SpliceHeader) (layout : Bytes) : Nat := if lengthOpen h then layout.length else h.commandLength.toNat

section
variable {p : Parse SpliceCommand} {layout pre : Bytes} {cmd : SpliceCommand} {c : SpliceCall}

/-- A body that begins with the command's layout, the declared end inside it. -/
theorem parsedCommand_reads (h : ReadsBytes p layout cmd) {tail : Bytes} (hpre : pre.length = 14)
    (hbuf : c.buf = pre ++ (layout ++ tail)) (hend : commandEnd c.header layout ≤ (layout ++ tail).length) :
    parsedCommand p c =
      evSplice c cmd ::
        ((if !isCancel cmd && commandEnd c.header layout != layout.length then [.exn (.x13 c.src)] else []) ++
          descriptorLoop c.src (layout ++ tail) (commandEnd c.header layout)) := by
  have hlen : c.buf.length = 14 + (layout ++ tail).length := by rw [hbuf, List.length_append, hpre]
  have hrun : p (brInit c.buf 112) = some (cmd, ⟨c.buf, 8 * (14 + layout.length)⟩) := by
    have hrun := h.run pre tail
    rwa [List.append_assoc, ← hbuf, hpre] at hrun
  have hloop : ∀ k, descriptorLoop c.src c.buf (14 + k) = descriptorLoop c.src (layout ++ tail) k := fun k => by
    rw [hbuf, ← hpre, descriptorLoop_append]
  rw [parsedCommand, hrun]
  cases hopen : lengthOpen c.header with
  | true =>
    simp only [commandEnd, hopen, if_true, Bool.not_true, Bool.false_and, Bool.false_eq_true, if_false, bne_self_eq_false,
      Bool.and_false, Nat.mul_div_cancel_left _ (by decide : 0 < 8), hloop]
    rfl
  | false =>
    have hdeclared : commandEnd c.header layout = c.header.commandLength.toNat := by simp [commandEnd, hopen]
    rw [hdeclared] at hend ⊢
    have hin : ¬ c.buf.length < declaredEnd c.header := by rw [declaredEnd]; omega
    have hpos : (8 * (14 + layout.length) != 8 * declaredEnd c.header) =
        (c.header.commandLength.toNat != layout.length) := by
      rw [Bool.eq_iff_iff, bne_iff_ne, bne_iff_ne, declaredEnd]
      omega
    have hafter : descriptorLoop c.src c.buf (declaredEnd c.header) = _ := hloop c.header.commandLength.toNat
    simp only [hin, decide_false, Bool.and_false, Bool.not_false, Bool.true_and, Bool.false_eq_true, if_false, hafter, hpos]
    rfl

/-- A body cut inside the command's layout (R276). -/
theorem parsedCommand_cut (h : ReadsBytes p layout cmd) {n : Nat} (hn : n < layout.length) (hpre : pre.length = 14)
    (hbuf : c.buf = pre ++ layout.take n) : parsedCommand p c = [.exn (.x11 c.src)] := by
  have hcut : p (brInit c.buf 112) = none := by
    have hcut := h.cut pre hn
    rwa [← hbuf, hpre] at hcut
  rw [parsedCommand, hcut]
  split
  · rfl
  · rfl

end

/-! ## The annotation (R283, R284) -/

/-- The distance is the one number of its range that is congruent to the difference (R283). -/
theorem elapsed_spec (pts base : BitVec 33) :
    -4294967296 ≤ elapsed pts base ∧ elapsed pts base ≤ 4294967295 ∧
      (elapsed pts base - ((pts.toNat : Int) - base.toNat)) % 8589934592 = 0 := by
  unfold elapsed
  simp only [BitVec.toNat_sub]
  split
  all_goals omega

theorem annotates_annotation (pcr : Option PcrEntry) (eventId : BitVec 32) (d : InsertDetail) :
    annotates pcr d.spliceMode (annotation (.spliceInsert eventId (some d)) pcr) := by
  refine ⟨fun pts p hmode hpcr => ?_, fun hno => ?_⟩
  · obtain ⟨hlow, hhigh, hcongr⟩ := elapsed_spec pts p.base
    refine ⟨_, hlow, hhigh, hcongr, ?_⟩
    simp only [annotation, annotatedPts, hmode, hpcr]
  · cases hmode : d.spliceMode with
    | components cs => simp [annotation, annotatedPts, hmode]
    | program t =>
      match t with
      | .immediate | .timed none => simp [annotation, annotatedPts, hmode]
      | .timed (some pts) =>
        match pcr with
        | none | some .absent | some .noPcr => simp [annotation, annotatedPts, hmode]
        | some (.seen p) => exact absurd rfl (hno pts p hmode)

/-! ## The row -/

/-- SPLICE_INSERT appends the events of its body, taken where it stands (R250, R264). -/
theorem exec_spliceInsert {s : State} (hm : s.mode ≠ .fatal) (u : SpliceUnit) :
    exec (.spliceInsert u) s =
      .next { s with events := s.events ++ parsedCommand insertP (unitCall 0#1 0x05#8 u) } := by
  show execSpliceInsert u s = _
  rw [execSpliceInsert, inUnit_live hm, runSplice, withHeader_spliceBytes]
  rfl

/-- Where the descriptor loop starts in a section's body, after a layout (R257, R258). -/
theorem commandEnd_of_declared {u : SpliceUnit} (h : u.commandLength ≠ 0xFFF#12) (layout : Bytes) :
    commandEnd (unitHeader 0#1 0x05#8 u) layout = u.commandLength.toNat := by
  simp [commandEnd, lengthOpen, unitHeader, h]

theorem commandEnd_of_open {u : SpliceUnit} (h : u.commandLength = 0xFFF#12) (layout : Bytes) :
    commandEnd (unitHeader 0#1 0x05#8 u) layout = layout.length := by
  simp [commandEnd, lengthOpen, unitHeader, h]

/-- Settles O40: the body is read as its value (`reads_insertBody`, `reads_insertCancel`), and what follows EV_SPLICE is
decided by where the command is declared to end. -/
theorem spliceInsertRoundTrips : Obligations.SpliceInsertRoundTrips := by
  intro res sif eventId d ds rest u s hm henc layout cancelled declared reported cut
  have hbody := reads_insertBody res sif eventId henc
  have hcancel := reads_insertCancel res eventId
  have hcancelled : cancelled rest = insertCancelBytes eventId res [] ++ rest := by
    simp only [cancelled, insertCancelBytes, List.append_nil]
  have hann := annotates_annotation u.pcr eventId d
  obtain ⟨pre, hpre, hbytes⟩ := exists_spliceBytes_prefix 0#1 0x05#8 u
  have hbuf : ∀ {body}, u.body = body → (unitCall 0#1 0x05#8 u).buf = pre ++ body := fun h => h ▸ hbytes
  have hcut : ∀ {bs cmd n}, ReadsBytes insertP bs cmd → n < bs.length → u.body = bs.take n → cut := by
    intro bs cmd n hread hn hu
    show exec _ _ = _
    rw [exec_spliceInsert hm, parsedCommand_cut hread hn hpre (hbuf hu)]
    rfl
  have hwhole : ∀ {bs tail cmd after}, ReadsBytes insertP bs cmd → u.body = bs ++ tail →
      commandEnd (unitHeader 0#1 0x05#8 u) bs ≤ u.body.length →
      (if !isCancel cmd && commandEnd (unitHeader 0#1 0x05#8 u) bs != bs.length then [Event.exn (.x13 u.srcPid)] else []) ++
        descriptorLoop u.srcPid u.body (commandEnd (unitHeader 0#1 0x05#8 u) bs) = after →
      reported cmd (annotation cmd u.pcr) after := by
    intro bs tail cmd after hread hu hend hafter
    rw [hu] at hend hafter
    show exec _ _ = _
    rw [exec_spliceInsert hm, parsedCommand_reads hread hpre (hbuf hu) hend, List.append_assoc, ← hafter]
    rfl
  refine ⟨fun hds hu hend => ⟨_, hann, ?_⟩, fun hu hdecl hne hin => ⟨_, hann, ?_⟩, fun n hn hu => ?_, fun hu hdecl hin => ?_,
    fun hu hopen => ?_, fun n hn hu => ?_⟩
  · have hatEnd : commandEnd (unitHeader 0#1 0x05#8 u) layout = layout.length := by
      by_cases hopen : u.commandLength = 0xFFF#12
      · exact commandEnd_of_open hopen layout
      · exact (commandEnd_of_declared hopen layout).trans (hend.resolve_right hopen)
    rw [List.append_assoc] at hu
    refine hwhole hbody hu (by rw [hatEnd, hu, List.length_append]; omega) ?_
    have hloop := descriptorLoop_append u.srcPid layout (descriptorBytes ds ++ rest) 0
    rw [Nat.add_zero, descriptorLoop_descriptorBytes u.srcPid hds] at hloop
    rw [hatEnd, bne_self_eq_false, Bool.and_false, hu, hloop]
    rfl
  · have hdeclared := commandEnd_of_declared hdecl layout
    refine hwhole hbody hu (hdeclared ▸ hin) ?_
    rw [hdeclared, bne_iff_ne.mpr hne]
    rfl
  · exact hcut hbody hn hu
  · have hdeclared := commandEnd_of_declared hdecl (insertCancelBytes eventId res [])
    exact hwhole hcancel (hu.trans hcancelled) (hdeclared ▸ hin) (by rw [hdeclared]; rfl)
  · have hatEnd := commandEnd_of_open hopen (insertCancelBytes eventId res [])
    refine hwhole hcancel (hu.trans hcancelled) ?_ (by rw [hatEnd]; rfl)
    rw [hatEnd, hu, hcancelled, List.length_append]
    omega
  · refine hcut hcancel hn (hu.trans ?_)
    rw [hcancelled]
    exact List.take_append_of_le_length (Nat.le_of_lt hn)

end Sys2Proof.Machine
end

section
/-! PROOFS. A PMT section laid out by R99 is read back stream by stream, and one with a structural fault is bad (R225 to
R230). -/

namespace Sys2Proof.Machine

/-! ## Descriptor loops of a stream (R100, R225, R230) -/

/-- The scan's test of a descriptor whose data others follow (R230). -/
theorem cuei_test_eq (d : Byte × Bytes) (rest : Bytes) :
    (d.1 == 0x05#8 && 4 ≤ d.2.length && (d.2 ++ rest).take 4 == cuei) = isCuei d := by
  unfold isCuei
  by_cases h4 : 4 ≤ d.2.length
  · rw [List.take_append_of_le_length h4]
    simp [h4]
  · have hne : d.2.take 4 ≠ cuei := fun h => by
      have hlen := congrArg List.length h
      simp only [List.length_take, cuei, List.length_cons, List.length_nil] at hlen
      omega
    simp [h4, hne]

/-- Whole descriptors are scanned one by one; what follows them is scanned in the end. -/
theorem scanDescriptors_entryBytes {ds : List (Byte × Bytes)} (h : ∀ d ∈ ds, d.2.length ≤ 255) (cut : Bytes) {fuel : Nat}
    (hfuel : (entryBytes ds ++ cut).length ≤ fuel) (found : Bool) :
    ∃ fuel', cut.length ≤ fuel' ∧
      scanDescriptors fuel (entryBytes ds ++ cut) found = scanDescriptors fuel' cut (found || ds.any isCuei) := by
  induction ds generalizing fuel found with
  | nil => exact ⟨fuel, hfuel, by rw [List.any_nil, Bool.or_false]; rfl⟩
  | cons d rest ih =>
    obtain ⟨hd, hrest⟩ := List.forall_mem_cons.mp h
    have hlen : (BitVec.ofNat 8 d.2.length).toNat = d.2.length := by rw [BitVec.toNat_ofNat]; omega
    rw [entryBytes_cons] at hfuel ⊢
    simp only [List.length_cons, List.length_append, List.cons_append] at hfuel
    obtain ⟨n, rfl⟩ : ∃ n, fuel = n + 1 := ⟨fuel - 1, by omega⟩
    obtain ⟨fuel', hfuel', htail⟩ := ih hrest (fuel := n) (by rw [List.length_append]; omega) (found || isCuei d)
    refine ⟨fuel', hfuel', ?_⟩
    have hin : ¬ (d.2 ++ (entryBytes rest ++ cut)).length < d.2.length := by rw [List.length_append]; omega
    rw [List.any_cons, ← Bool.or_assoc, ← htail, ← cuei_test_eq d (entryBytes rest ++ cut)]
    simp only [List.cons_append, List.append_assoc, scanDescriptors, hlen, if_neg hin, List.drop_left]

/-- A sound loop says whether it holds a CUEI registration. -/
theorem scanDescriptors_sound {ds : List (Byte × Bytes)} (h : ∀ d ∈ ds, d.2.length ≤ 255) :
    scanDescriptors (entryBytes ds).length (entryBytes ds) false = some (ds.any isCuei) := by
  obtain ⟨fuel', -, hscan⟩ := scanDescriptors_entryBytes h [] (by rw [List.append_nil]) false
  rw [List.append_nil, Bool.false_or] at hscan
  rw [hscan]
  cases fuel' <;> rfl

/-- A loop that ends in no whole descriptor is a structural fault (R226). -/
theorem scanDescriptors_broken {ds : List (Byte × Bytes)} (h : ∀ d ∈ ds, d.2.length ≤ 255) {cut : Bytes}
    (hcut : brokenEntry cut) :
    scanDescriptors (entryBytes ds ++ cut).length (entryBytes ds ++ cut) false = none := by
  obtain ⟨fuel', hfuel', hscan⟩ := scanDescriptors_entryBytes h cut le_rfl false
  rw [hscan]
  obtain hone | ⟨tag, len, short, rfl, hshort⟩ := hcut
  · obtain ⟨b, rfl⟩ := List.length_eq_one_iff.mp hone
    obtain ⟨n, rfl⟩ : ∃ n, fuel' = n + 1 := ⟨fuel' - 1, by rw [hone] at hfuel'; omega⟩
    rfl
  · obtain ⟨n, rfl⟩ : ∃ n, fuel' = n + 1 := ⟨fuel' - 1, by rw [List.length_cons] at hfuel'; omega⟩
    exact if_pos hshort

/-! ## The loop of elementary streams (R99, R225) -/

/-- What the scan makes of a stream. -/
def markOf (e : PmtStream) : Pid × Bool := (e.pid, e.descriptors.any isCuei)

/-- A 12-bit length under four reserved bits (R99). -/
theorem length12_toNat {n : Nat} (h : n < 4096) (res : BitVec 4) :
    ((res ++ BitVec.ofNat 12 n).extractLsb' 0 12).toNat = n := by
  rw [BitVec.extractLsb'_append_eq_right, BitVec.toNat_ofNat, Nat.mod_eq_of_lt h]

theorem pmtEntry_append (e : PmtStream) (rest : Bytes) :
    ∃ p1 p0 l1 l0 : Byte, p1 ++ p0 = 0x7#3 ++ e.pid ∧
      l1 ++ l0 = 0xF#4 ++ BitVec.ofNat 12 (entryBytes e.descriptors).length ∧
        pmtEntry e ++ rest = e.streamType :: p1 :: p0 :: l1 :: l0 :: (entryBytes e.descriptors ++ rest) :=
  ⟨_, _, _, _, be16_word _, be16_word _, by
    simp only [pmtEntry, be16, List.cons_append, List.nil_append]⟩

/-- One sound entry. -/
theorem scanStreams_pmtEntry {e : PmtStream} (hloop : (entryBytes e.descriptors).length < 4096)
    (hdata : ∀ d ∈ e.descriptors, d.2.length ≤ 255) (rest : Bytes) (fuel : Nat) :
    scanStreams (fuel + 1) (pmtEntry e ++ rest) = (scanStreams fuel rest).map (markOf e :: ·) := by
  obtain ⟨p1, p0, l1, l0, hpid, hlen, hbytes⟩ := pmtEntry_append e rest
  have heil : ((l1 ++ l0).extractLsb' 0 12).toNat = (entryBytes e.descriptors).length := by
    rw [hlen]; exact length12_toNat hloop _
  have hpid : (p1 ++ p0).extractLsb' 0 13 = e.pid := by rw [hpid]; exact BitVec.extractLsb'_append_eq_right
  have hin : ¬ (entryBytes e.descriptors ++ rest).length < (entryBytes e.descriptors).length := by
    rw [List.length_append]; omega
  rw [hbytes]
  simp only [scanStreams, heil, if_neg hin, List.take_left, List.drop_left, scanDescriptors_sound hdata, hpid]
  cases scanStreams fuel rest <;> rfl

/-- Sound entries, then what follows them. -/
theorem scanStreams_flatMap {es : List PmtStream}
    (h : ∀ e ∈ es, (entryBytes e.descriptors).length < 4096 ∧ ∀ d ∈ e.descriptors, d.2.length ≤ 255) (tail : Bytes)
    {fuel : Nat} (hfuel : (es.flatMap pmtEntry ++ tail).length ≤ fuel) :
    ∃ fuel', tail.length ≤ fuel' ∧
      scanStreams fuel (es.flatMap pmtEntry ++ tail) = (scanStreams fuel' tail).map (es.map markOf ++ ·) := by
  induction es generalizing fuel with
  | nil => exact ⟨fuel, hfuel, by simp⟩
  | cons e rest ih =>
    obtain ⟨⟨hloop, hdata⟩, hrest⟩ := List.forall_mem_cons.mp h
    rw [List.flatMap_cons, List.append_assoc] at hfuel ⊢
    have hentry : 0 < (pmtEntry e).length := by simp [pmtEntry]
    rw [List.length_append] at hfuel
    obtain ⟨n, rfl⟩ : ∃ n, fuel = n + 1 := ⟨fuel - 1, by omega⟩
    obtain ⟨fuel', hfuel', htail⟩ := ih hrest (fuel := n) (by omega)
    refine ⟨fuel', hfuel', ?_⟩
    rw [scanStreams_pmtEntry hloop hdata, htail, Option.map_map]
    rfl

/-- What is no sound entry is a structural fault (R226). -/
theorem scanStreams_broken {tail : Bytes} (h : brokenStream tail) {fuel : Nat} (hfuel : tail.length ≤ fuel) :
    scanStreams fuel tail = none := by
  obtain ⟨hpos, hshort⟩ | ⟨ty, p1, p0, l1, l0, rest, rfl, hfault⟩ := h
  · obtain ⟨n, rfl⟩ : ∃ n, fuel = n + 1 := ⟨fuel - 1, by omega⟩
    match tail, hpos, hshort with
    | [_], _, _ | [_, _], _, _ | [_, _, _], _, _ | [_, _, _, _], _, _ => rfl
  · obtain ⟨n, rfl⟩ : ∃ n, fuel = n + 1 := ⟨fuel - 1, by rw [List.length_cons] at hfuel; omega⟩
    simp only [scanStreams]
    split
    · rfl
    · next hin =>
      obtain ⟨ds, cut, hdata, hcut, hlen, htake⟩ := hfault.resolve_left hin
      rw [htake, hlen, scanDescriptors_broken hdata hcut]

/-! ## The section (R99, R225 to R227) -/

section
variable (h : SectionHeader) (pn : BitVec 16) (head : BitVec 40) (info : Bytes) (es : List PmtStream) (tail : Bytes)
  (c : BitVec 32)

/-- The twelve bytes before the program-level descriptors. -/
def pmtHead : Bytes :=
  0x02#8 :: (be16 (sectionWord h) ++ (be16 pn ++ (be40 head ++ be16 (0xF#4 ++ BitVec.ofNat 12 info.length))))

theorem pmtBytes_eq :
    pmtBytes h pn head info es tail c = pmtHead h pn head info ++ info ++ (es.flatMap pmtEntry ++ tail ++ be32 c) := by
  simp only [pmtBytes, pmtHead, sectionBytes, List.append_assoc, List.cons_append]

theorem length_pmtBytes : (pmtBytes h pn head info es tail c).length =
    12 + info.length + (es.flatMap pmtEntry ++ tail).length + 4 := by
  have hhead : (pmtHead h pn head info).length = 12 := rfl
  have hcrc : (be32 c).length = 4 := rfl
  rw [pmtBytes_eq, List.length_append, List.length_append, List.length_append, hhead, hcrc, Nat.add_assoc _ _ 4]

theorem u16be_pmtBytes : u16be (pmtBytes h pn head info es tail c) 3 = pn := by
  rw [pmtBytes_eq]
  exact be16_word pn

/-- A section for the filter's program is its stream loop, scanned. -/
theorem parsePmt_pmtBytes (hinfo : info.length < 4096) :
    parsePmt pn (pmtBytes h pn head info es tail c) =
      (scanStreams (es.flatMap pmtEntry ++ tail).length (es.flatMap pmtEntry ++ tail)).elim .bad .streams := by
  have hlen := length_pmtBytes h pn head info es tail c
  have hword : byteAt (pmtBytes h pn head info es tail c) 10 ++ byteAt (pmtBytes h pn head info es tail c) 11 =
      0xF#4 ++ BitVec.ofNat 12 info.length := by
    rw [pmtBytes_eq]
    exact be16_word _
  have hnat := length12_toNat hinfo 0xF#4
  have hpos : 12 + info.length = (pmtHead h pn head info ++ info).length := by rw [List.length_append]; rfl
  rw [parsePmt, if_neg (by omega), if_neg (by rw [u16be_pmtBytes]; exact fun hne => hne rfl), hword]
  simp only [hnat]
  rw [if_neg (by omega), show (pmtBytes h pn head info es tail c).length - 4 - (12 + info.length) =
    (es.flatMap pmtEntry ++ tail).length by omega, hpos, pmtBytes_eq, List.drop_left, List.take_left]
  cases scanStreams (es.flatMap pmtEntry ++ tail).length (es.flatMap pmtEntry ++ tail) with
  | none => rfl
  | some => rfl

end

/-- Settles O35: the section is its stream loop (`parsePmt_pmtBytes`), scanned entry by entry. -/
theorem pmtLayoutIsReadBack : Obligations.PmtLayoutIsReadBack := by
  intro h pn head info es c hfits
  obtain ⟨hinfo, hes⟩ := hfits
  refine ⟨?_, fun tail htail => ?_, fun tail other hne => ?_, fun sec hshort => if_pos hshort, fun sec hlen hpn hpast => ?_⟩
  · obtain ⟨fuel', -, hscan⟩ := scanStreams_flatMap hes [] le_rfl
    have hnil : scanStreams fuel' [] = some [] := by cases fuel' <;> rfl
    rw [parsePmt_pmtBytes h pn head info es [] c hinfo, hscan, hnil]
    simp only [Option.map_some, List.append_nil, Option.elim_some]
    rfl
  · obtain ⟨fuel', hfuel', hscan⟩ := scanStreams_flatMap hes tail le_rfl
    rw [parsePmt_pmtBytes h pn head info es tail c hinfo, hscan, scanStreams_broken htail hfuel']
    rfl
  · have hlen := length_pmtBytes h pn head info es tail c
    have hpn := u16be_pmtBytes h pn head info es tail c
    rw [parsePmt, if_neg (by omega), hpn, if_pos hne.symm]
  · rw [parsePmt, if_neg (by omega), if_neg (by rw [hpn]; exact fun hne => hne rfl)]
    exact if_pos (by omega)

end Sys2Proof.Machine
end

section
/-! PROOFS. What the demultiplexer does depends neither on F_NEXT nor on the events already emitted, and it reports no failed
FEC recovery: it commutes with every change of the two that keeps later events as they are. -/

namespace Sys2Proof.Machine

/-! ## Another F_NEXT and another past -/

/-- No failed recovery (X24) is among the events. -/
def NoRecoveryFault (es : List Event) : Prop := ∀ q, Event.exn (.x24 q) ∉ es

/-- A change of the event stream that keeps what is appended, unless it is X24. -/
def KeepsNews (g : List Event → List Event) : Prop := ∀ old es, NoRecoveryFault es → g (old ++ es) = g old ++ es

/-- The state with another F_NEXT and its event stream changed. -/
def retell (x : Option SeqNum) (g : List Event → List Event) (s : State) : State :=
  { s with fNext := x, events := g s.events }

/-- The operation depends on neither, and appends no X24. -/
def Blind (f : State → State) : Prop := ∀ x g, KeepsNews g → ∀ s, f (retell x g s) = retell x g (f s)

theorem blind_foldl {β : Type} {step : State → β → State} (h : ∀ b, Blind fun s => step s b) (bs : List β) :
    Blind fun s => bs.foldl step s := by
  intro x g hg s
  induction bs generalizing s with
  | nil => rfl
  | cons b rest ih =>
    have hb : step (retell x g s) b = retell x g (step s b) := h b x g hg s
    simp only [List.foldl_cons, hb, ih]

theorem noRecoveryFault_singleton {e : Event} (h : ∀ q, e ≠ .exn (.x24 q)) : NoRecoveryFault [e] :=
  fun q hq => h q (List.mem_singleton.mp hq).symm

theorem blind_emitAll {es : List Event} (h : NoRecoveryFault es) : Blind (emitAll es) := fun x g hg s => by
  rw [emitAll, retell, emitAll, retell, hg _ _ h]

/-- Every recoverable exception but X24. -/
theorem blind_raise {e : Exn} (he : e.fatalCode = none) (h : ∀ q, e ≠ .x24 q) : Blind (raise e) := fun x g hg s => by
  rw [raise_recoverable he, raise_recoverable he]
  exact blind_emitAll (noRecoveryFault_singleton fun q hq => h q (Event.exn.inj hq)) x g hg s

/-- Loss of synchronisation (R156). -/
theorem blind_raise_x02 : Blind (raise .x02) := fun x g hg s => by
  rw [raise_fatal rfl, raise_fatal rfl, retell, retell, hg _ _ (noRecoveryFault_singleton (by simp))]

/-! ## Splice sections -/

theorem noRecoveryFault_append {es fs : List Event} (h : NoRecoveryFault es) (h' : NoRecoveryFault fs) :
    NoRecoveryFault (es ++ fs) := fun q hq => (List.mem_append.mp hq).elim (h q) (h' q)

theorem noRecoveryFault_descriptorEntries (src : Option Pid) (n : Nat) (bs : Bytes) :
    NoRecoveryFault (descriptorEntries src n bs) := by
  induction n generalizing bs with
  | zero => simp [descriptorEntries, NoRecoveryFault]
  | succ n ih =>
    match bs with
    | [] => simp [descriptorEntries, NoRecoveryFault]
    | [_] => exact noRecoveryFault_singleton (by simp)
    | tag :: len :: rest =>
      rw [descriptorEntries]
      split
      · exact noRecoveryFault_singleton (by simp)
      · exact noRecoveryFault_append (es := [_]) (noRecoveryFault_singleton (by simp)) (ih (rest.drop len.toNat))

theorem noRecoveryFault_descriptorLoop (src : Option Pid) (buf : Bytes) (pos : Nat) :
    NoRecoveryFault (descriptorLoop src buf pos) := by
  unfold descriptorLoop
  simp only
  split
  · exact noRecoveryFault_singleton (by simp)
  · split
    · exact noRecoveryFault_singleton (by simp)
    · exact noRecoveryFault_descriptorEntries _ _ _

theorem noRecoveryFault_parsedCommand (p : Parse SpliceCommand) (c : SpliceCall) : NoRecoveryFault (parsedCommand p c) := by
  have hanomaly : ∀ b : Bool, NoRecoveryFault (if b then [.exn (.x13 c.src)] else []) := fun b => by
    cases b with
    | false => simp [NoRecoveryFault]
    | true => exact noRecoveryFault_singleton (by simp)
  unfold parsedCommand
  split
  · exact noRecoveryFault_singleton (by simp)
  · split
    · exact noRecoveryFault_singleton (by simp)
    · exact noRecoveryFault_append
        (noRecoveryFault_append (noRecoveryFault_singleton (by simp [evSplice])) (hanomaly _))
        (noRecoveryFault_descriptorLoop _ _ _)

theorem noRecoveryFault_opaqueCommand (mk : Bytes → SpliceCommand) {notice : List Event} (h : NoRecoveryFault notice)
    (c : SpliceCall) : NoRecoveryFault (opaqueCommand mk notice c) := by
  unfold opaqueCommand
  split
  · exact noRecoveryFault_singleton (by simp)
  · exact noRecoveryFault_append (noRecoveryFault_append (noRecoveryFault_singleton (by simp [evSplice])) h)
      (noRecoveryFault_descriptorLoop _ _ _)

theorem noRecoveryFault_spliceEvents (src : Option Pid) (pcr : Option PcrEntry) (buf : Bytes) :
    NoRecoveryFault (spliceEvents src pcr buf) := by
  have hnone : NoRecoveryFault [] := by simp [NoRecoveryFault]
  have hcommand : ∀ c, NoRecoveryFault (commandEvents c) := by
    intro c
    unfold commandEvents
    repeat' split
    · exact noRecoveryFault_singleton (by simp [evSplice])
    · exact noRecoveryFault_parsedCommand _ _
    · exact noRecoveryFault_opaqueCommand _ hnone _
    · exact noRecoveryFault_parsedCommand _ _
    · exact noRecoveryFault_parsedCommand _ _
    · exact noRecoveryFault_parsedCommand _ _
    · exact noRecoveryFault_opaqueCommand _ hnone _
    · exact noRecoveryFault_opaqueCommand _ (noRecoveryFault_singleton (by simp)) _
  unfold spliceEvents withHeader
  repeat' split
  · exact noRecoveryFault_singleton (by simp)
  · exact noRecoveryFault_singleton (by simp)
  · exact hcommand _

/-! ## Tables and sections -/

theorem blind_setAcc (p : Pid) (acc : Option Bytes) : Blind (setAcc p acc) := fun x g _ s => by
  have hread : reasmAt (retell x g s) p = reasmAt s p := rfl
  unfold setAcc
  rw [hread]
  split
  · rfl
  · rfl

theorem blind_classify (p : Pid) (f : Form) : Blind (classify p f) := fun x g _ s => by
  have hread : formAt (retell x g s) p = formAt s p := rfl
  unfold classify
  rw [hread]
  split
  · rfl
  · rfl

theorem blind_patSection (p : Pid) (sec : Bytes) : Blind (patSection p sec) := fun x g hg s => by
  unfold patSection
  split
  · exact blind_raise rfl (by simp) x g hg s
  · exact blind_foldl (fun e => blind_classify _ _) _ x g hg s

theorem blind_pmtSection (p : Pid) (pn : BitVec 16) (sec : Bytes) : Blind (pmtSection p pn sec) := fun x g hg s => by
  have hstreams : ∀ es : List (Pid × Bool), Blind fun s => es.foldl (fun s e => classify e.1 (streamForm p e) s) s := fun es =>
    blind_foldl (fun e => blind_classify _ _) es
  have hread : pcrAt (retell x g s) p = pcrAt s p := rfl
  unfold pmtSection
  split
  · exact blind_raise rfl (by simp) x g hg s
  · exact blind_raise rfl (by simp) x g hg s
  · next es _ =>
    unfold applyPmt
    rw [hread]
    split
    · exact hstreams es x g hg (setPcr p .noPcr s)
    · exact hstreams es x g hg s

theorem blind_complete (p : Pid) (sec : Bytes) : Blind (complete p sec) := fun x g hg s => by
  have hform : formAt (retell x g s) p = formAt s p := rfl
  unfold complete
  rw [hform]
  split
  · rfl
  split
  · exact blind_raise rfl (by simp) x g hg s
  split
  · exact blind_raise rfl (by simp) x g hg s
  unfold processSection
  split
  · exact blind_patSection p sec x g hg s
  · exact blind_pmtSection p _ sec x g hg s
  · exact blind_emitAll (noRecoveryFault_spliceEvents _ _ _) x g hg s
  · rfl
  · rfl
  · rfl

/-! ## The reassembler -/

theorem feed_retell {x : Option SeqNum} {g : List Event → List Event} (hg : KeepsNews g) (n : Nat) (p : Pid) (f : Form)
    (data : Bytes) (fresh : Bool) (s : State) :
    feed n p f data fresh (retell x g s) = (retell x g (feed n p f data fresh s).1, (feed n p f data fresh s).2) := by
  have hacc : ∀ s, accAt (retell x g s) p = accAt s p := fun _ => rfl
  have hform : ∀ s, formAt (retell x g s) p = formAt s p := fun _ => rfl
  induction n generalizing data s with
  | zero => rfl
  | succ n ih =>
    unfold feed
    rw [hacc]
    split
    · rfl
    split
    · rfl
    split
    · rw [blind_setAcc p _ x g hg]
    · rw [blind_raise rfl (by simp) x g hg, blind_setAcc p _ x g hg]
    · simp only [blind_setAcc p _ x g hg, blind_complete p _ x g hg, hform]
      split
      · rfl
      · exact ih _ _

theorem blind_feed (n : Nat) (p : Pid) (f : Form) (data : Bytes) (fresh : Bool) :
    Blind fun s => (feed n p f data fresh s).1 := fun _ _ hg s => congrArg Prod.fst (feed_retell hg n p f data fresh s)

theorem blind_continuity (p : Pid) (cc : Cc) (r : Reasm) : Blind (continuity p cc r) := fun x g hg s => by
  unfold continuity
  split
  · exact blind_raise rfl (by simp) x g hg (setReasm p _ s)
  · rfl

theorem blind_consumeStart (p : Pid) (f : Form) (ptr : Byte) (d : Bytes) : Blind (consumeStart p f ptr d) :=
  fun x g hg s => by
  have hacc : ∀ s, accAt (retell x g s) p = accAt s p := fun _ => rfl
  unfold consumeStart
  split
  · rw [blind_raise rfl (by simp) x g hg, blind_setAcc p _ x g hg]
  · simp only [hacc, feed_retell hg]
    split
    · rfl
    split
    · rfl
    split
    · rw [feed_retell hg]
    · rw [blind_raise rfl (by simp) x g hg, blind_setAcc p _ x g hg, feed_retell hg]

theorem blind_consume (p : Pid) (pusi : BitVec 1) (cc : Cc) (d : Bytes) : Blind (consume p pusi cc d) := fun x g hg s => by
  have hreasm : reasmAt (retell x g s) p = reasmAt s p := rfl
  have hform : formAt (retell x g s) p = formAt s p := rfl
  have hacc : ∀ s, accAt (retell x g s) p = accAt s p := fun _ => rfl
  unfold consume
  rw [hreasm]
  split
  · rfl
  simp only [blind_continuity p cc _ x g hg, hform, hacc]
  split
  · split
    · rfl
    · exact blind_consumeStart p _ _ _ x g hg _
  · split
    · rfl
    · exact blind_feed _ p _ _ _ x g hg _

/-! ## Packets and framing -/

theorem blind_route (u : RouteUnit) : Blind (route u) := fun x g hg s => by
  have hform : ∀ s, formAt (retell x g s) u.pid = formAt s u.pid := fun _ => rfl
  have hsection : Blind (routeSection u) := fun x g hg s => by
    unfold routeSection
    split
    · rfl
    · exact blind_consume _ _ _ _ x g hg s
  have hbuilt : ∀ s, routeBuilt u (retell x g s) = retell x g (routeBuilt u s) := fun s => by
    unfold routeBuilt
    rw [hform]
    split
    · rfl
    · rfl
    · unfold routePcr
      split
      · rfl
      · rfl
    · exact hsection x g hg s
    · exact hsection x g hg s
    · exact hsection x g hg s
  unfold route
  rw [hform]
  split
  · exact hbuilt (construct u.pid s)
  · exact hbuilt s

theorem blind_packet (p : Bytes) : Blind (packet p) := fun x g hg s => by
  unfold packet
  simp only
  split
  · exact blind_raise rfl (by simp) x g hg s
  split
  · exact blind_route _ x g hg s
  split
  · unfold adaptPacket
    split
    · exact blind_raise rfl (by simp) x g hg s
    · exact blind_route _ x g hg s
  · unfold adaptPayloadPacket
    split
    · exact blind_raise rfl (by simp) x g hg s
    · exact blind_route _ x g hg s

theorem resync_retell {x : Option SeqNum} {g : List Event → List Event} (hg : KeepsNews g) (s : State) :
    resync (retell x g s) = (retell x g (resync s).1, (resync s).2) := by
  have hhunt : hunt (retell x g s).params.resyncWindow (retell x g s).pktbuf = hunt s.params.resyncWindow s.pktbuf := rfl
  unfold resync
  rw [hhunt]
  split
  · rfl
  · next k _ => exact congrArg (·, true) (blind_raise rfl (by simp) x g hg { s with pktbuf := s.pktbuf.drop k })
  · exact congrArg (·, false) (blind_raise_x02 x g hg s)

theorem blind_frameLoop (n : Nat) : Blind (frameLoop n) := fun x g hg s => by
  have hmode : ∀ s, (retell x g s).mode = s.mode := fun _ => rfl
  have hbuf : ∀ s, (retell x g s).pktbuf = s.pktbuf := fun _ => rfl
  induction n generalizing s with
  | zero => rfl
  | succ n ih =>
    unfold frameLoop
    rw [hmode, hbuf, resync_retell hg]
    split
    · rfl
    split
    · rfl
    split
    · split
      · rfl
      · rw [← ih, ← blind_packet _ x g hg]
        rfl
    · obtain ⟨s', more⟩ := resync s
      cases more with
      | false => rfl
      | true => exact ih s'

theorem blind_demuxPush (bytes : Bytes) : Blind (demuxPush bytes) := fun x g hg s =>
  blind_frameLoop (s.pktbuf ++ bytes).length x g hg { s with pktbuf := s.pktbuf ++ bytes }

/-- RTP.DELIVER neither reads F_NEXT nor reports a failed recovery (R306). -/
theorem blind_rtpDeliver (q : SeqNum) (p : Bytes) : Blind (rtpDeliver q p) := fun x g hg s => by
  have hlast : (retell x g s).rtpLast = s.rtpLast := rfl
  have hpush : ∀ s : State, demuxPush p { retell x g s with rtpLast := some q } =
      retell x g (demuxPush p { s with rtpLast := some q }) := fun s =>
    blind_demuxPush p x g hg { s with rtpLast := some q }
  unfold rtpDeliver
  rw [hlast]
  split
  · exact hpush s
  · split
    · exact hpush s
    · rw [blind_raise rfl (by simp) x g hg]
      exact hpush _

end Sys2Proof.Machine
end

section
/-! PROOFS. Delivery (R337): DELIVER hands the stored numbers to RTP.DELIVER in order up to the first that is neither stored nor
overdue, and reports no failed recovery. -/

namespace Sys2Proof.Machine

/-! ## What a blind operation appends -/

/-- X24 (R334). -/
def isRecoveryFault : Event → Bool
  | .exn (.x24 _) => true
  | _ => false

theorem noRecoveryFault_iff {es : List Event} : NoRecoveryFault es ↔ ∀ e ∈ es, isRecoveryFault e = false := by
  refine ⟨fun h e he => ?_, fun h q hq => by cases h _ hq⟩
  match e with
  | .exn (.x24 q) => exact absurd he (h q)
  | .splice .. | .descriptor .. => rfl
  | .exn x => cases x with
    | x24 q => exact absurd he (h q)
    | _ => rfl

/-- It appends events, and no X24 among them. -/
theorem Blind.appends {f : State → State} (hf : Blind f) (s : State) :
    ∃ es, (f s).events = s.events ++ es ∧ NoRecoveryFault es := by
  have hpast : KeepsNews (s.events ++ ·) := fun old es _ => (List.append_assoc s.events old es).symm
  have hdrop : KeepsNews (List.filter fun e => !isRecoveryFault e) := fun old es hes => by
    have hnews : es.filter (fun e => !isRecoveryFault e) = es :=
      List.filter_eq_self.mpr fun e he => by rw [noRecoveryFault_iff.mp hes e he]; rfl
    rw [List.filter_append, hnews]
  have hevents := congrArg State.events (hf s.fNext _ hpast { s with events := [] })
  have hclean := congrArg State.events (hf s.fNext _ hdrop { s with events := [] })
  refine ⟨(f { s with events := [] }).events, ?_, ?_⟩
  · simpa only [retell, List.append_nil] using hevents
  · refine noRecoveryFault_iff.mpr fun e he => ?_
    rw [show (f { s with events := [] }).events = _ from hclean] at he
    simpa using (List.mem_filter.mp he).2

/-! ## Handing over a run of numbers -/

/-- RTP.DELIVER of a list of packets in order. -/
def deliverAll (ps : List (SeqNum × Bytes)) (s : State) : State := ps.foldl (fun s e => rtpDeliver e.1 e.2 s) s

theorem blind_deliverAll (ps : List (SeqNum × Bytes)) : Blind (deliverAll ps) := by
  unfold deliverAll
  exact blind_foldl (fun e => blind_rtpDeliver e.1 e.2) ps

theorem deliverAll_fNext (ps : List (SeqNum × Bytes)) (x : Option SeqNum) (s : State) :
    deliverAll ps { s with fNext := x } = { deliverAll ps s with fNext := x } :=
  blind_deliverAll ps x id (fun _ _ _ => rfl) s

theorem sameFec_deliverAll (ps : List (SeqNum × Bytes)) (s : State) : SameFec s (deliverAll ps s) := by
  induction ps generalizing s with
  | nil => exact SameFec.refl s
  | cons e rest ih => exact (sameFec_rtpDeliver e.1 e.2 s).trans (ih _)

/-- The state once the `n` numbers from `q` on have been handed over or given up. -/
def handedOver (s : State) (q : SeqNum) (n : Nat) : State :=
  deliverAll (storedRun s q n) { s with fNext := some (q + BitVec.ofNat 16 n) }

theorem sameFec_handedOver (s : State) (q : SeqNum) (n : Nat) :
    SameFec { s with fNext := some (q + BitVec.ofNat 16 n) } (handedOver s q n) := sameFec_deliverAll _ _

theorem handedOver_zero {s : State} {q : SeqNum} (h : s.fNext = some q) : handedOver s q 0 = s := by
  rw [handedOver, BitVec.add_zero, ← h]
  rfl

theorem ofNat_succ_add (q : SeqNum) (n : Nat) : q + BitVec.ofNat 16 n + 1#16 = q + BitVec.ofNat 16 (n + 1) := by
  rw [BitVec.add_assoc, BitVec.ofNat_add]

theorem storedRun_succ (s : State) (q : SeqNum) (n : Nat) :
    storedRun s q (n + 1) = storedRun s q n ++
      ((tableGet (q + BitVec.ofNat 16 n).toNat s.fStore).map fun p => (q + BitVec.ofNat 16 n, p)).toList := by
  rw [storedRun, List.range_succ, List.filterMap_append]
  rfl

/-- A number given up moves F_NEXT alone. -/
theorem handedOver_succ_of_missing {s : State} {q : SeqNum} {n : Nat}
    (h : tableGet (q + BitVec.ofNat 16 n).toNat s.fStore = none) :
    handedOver s q (n + 1) = { handedOver s q n with fNext := some (q + BitVec.ofNat 16 (n + 1)) } := by
  rw [handedOver, storedRun_succ, h, handedOver, ← deliverAll_fNext]
  simp

/-- A stored number is handed over with F_NEXT past it. -/
theorem handedOver_succ_of_stored {s : State} {q : SeqNum} {n : Nat} {p : Bytes}
    (h : tableGet (q + BitVec.ofNat 16 n).toNat s.fStore = some p) :
    handedOver s q (n + 1) = rtpDeliver (q + BitVec.ofNat 16 n) p
      { handedOver s q n with fNext := some (q + BitVec.ofNat 16 (n + 1)) } := by
  rw [handedOver, storedRun_succ, h, handedOver, ← deliverAll_fNext, deliverAll, List.foldl_append]
  rfl

/-! ## DELIVER (R337) -/

/-- One turn of the sequence space meets a number that is neither stored nor overdue. -/
theorem exists_stop {s : State} {hi : SeqNum} (hwin : ∀ o, stored s o = true → dist o hi < 32768) (q : SeqNum) :
    ∃ n < 65536, stored s (q + BitVec.ofNat 16 n) = false ∧ ¬ overdue s hi (q + BitVec.ofNat 16 n) := by
  refine ⟨(hi + 1#16 - q).toNat, (hi + 1#16 - q).isLt, ?_⟩
  rw [BitVec.ofNat_toNat, BitVec.setWidth_eq]
  have hnext : q + (hi + 1#16 - q) = hi + 1#16 := by bv_omega
  have hfar : ¬ dist (hi + 1#16) hi < 32768 := by simp only [dist]; bv_omega
  rw [hnext]
  exact ⟨Bool.eq_false_iff.mpr fun h => hfar (hwin _ h), fun h => hfar h.1⟩

section
variable {s : State} {hi q : SeqNum} (fuel : Nat) (hnext : s.fNext = some q) (hhi : s.fHi = some hi)
include hnext hhi

theorem deliver_of_stored {p : Bytes} (h : tableGet q.toNat s.fStore = some p) :
    deliver (fuel + 1) s =
      if (rtpDeliver q p { s with fNext := some (q + 1#16) }).mode = .fatal then
        rtpDeliver q p { s with fNext := some (q + 1#16) }
      else deliver fuel (rtpDeliver q p { s with fNext := some (q + 1#16) }) := by
  simp only [deliver, hnext, hhi, h]

theorem deliver_of_overdue (h : tableGet q.toNat s.fStore = none) (hov : overdue s hi q) :
    deliver (fuel + 1) s = deliver fuel { s with fNext := some (q + 1#16) } := by
  simp only [deliver, hnext, hhi, h]
  exact if_pos hov

theorem deliver_of_waiting (h : tableGet q.toNat s.fStore = none) (hov : ¬ overdue s hi q) :
    deliver (fuel + 1) s = s := by
  simp only [deliver, hnext, hhi, h]
  exact if_neg hov

end

/-- DELIVER goes on from where `n` numbers have been passed, with fuel for the rest of one turn. -/
theorem deliver_handedOver {s : State} {hi q : SeqNum} (hhi : s.fHi = some hi)
    (hwin : ∀ o, stored s o = true → dist o hi < 32768) {fuel n : Nat} (hfuel : fuel + n = 65536)
    (hlive : (handedOver s q n).mode ≠ .fatal)
    (hpassed : ∀ j < n, stored s (q + BitVec.ofNat 16 j) = true ∨ overdue s hi (q + BitVec.ofNat 16 j)) :
    deliversFrom hi q s (deliver fuel (handedOver s q n)) := by
  induction fuel generalizing n with
  | zero =>
    obtain ⟨j, hj, hmissing, hintime⟩ := exists_stop hwin q
    obtain hst | hov := hpassed j (by omega)
    · rw [hmissing] at hst; cases hst
    · exact absurd hov hintime
  | succ fuel ih =>
    have hsame := sameFec_handedOver s q n
    have hfHi : (handedOver s q n).fHi = some hi := hsame.fHi.trans hhi
    have hstore : (handedOver s q n).fStore = s.fStore := hsame.fStore
    have hoverdue : overdue (handedOver s q n) hi (q + BitVec.ofNat 16 n) ↔ overdue s hi (q + BitVec.ofNat 16 n) := by
      rw [overdue, hsame.params, overdue]
    have hpassed' : (stored s (q + BitVec.ofNat 16 n) = true ∨ overdue s hi (q + BitVec.ofNat 16 n)) →
        ∀ j < n + 1, stored s (q + BitVec.ofNat 16 j) = true ∨ overdue s hi (q + BitVec.ofNat 16 j) :=
      fun hn j hj => (Nat.lt_succ_iff_lt_or_eq.mp hj).elim (hpassed j) fun h => h ▸ hn
    cases hget : tableGet (q + BitVec.ofNat 16 n).toNat s.fStore with
    | some p =>
      have hst : stored s (q + BitVec.ofNat 16 n) = true := by rw [stored, hget]; rfl
      rw [deliver_of_stored fuel hsame.fNext hfHi (hstore ▸ hget), ofNat_succ_add, ← handedOver_succ_of_stored hget]
      split
      · next hfatal => exact ⟨n + 1, hpassed' (.inl hst), rfl, .inl hfatal⟩
      · next hlive' => exact ih (by omega) hlive' (hpassed' (.inl hst))
    | none =>
      have hmissing : stored s (q + BitVec.ofNat 16 n) = false := by rw [stored, hget]; rfl
      by_cases hov : overdue s hi (q + BitVec.ofNat 16 n)
      · rw [deliver_of_overdue fuel hsame.fNext hfHi (hstore ▸ hget) (hoverdue.mpr hov), ofNat_succ_add,
          ← handedOver_succ_of_missing hget]
        exact ih (by omega) (by rw [handedOver_succ_of_missing hget]; exact hlive) (hpassed' (.inr hov))
      · rw [deliver_of_waiting fuel hsame.fNext hfHi (hstore ▸ hget) fun h => hov (hoverdue.mp h)]
        exact ⟨n, hpassed, rfl, .inr ⟨hmissing, hov⟩⟩

/-- DELIVER, where every stored number is behind F_HI. -/
theorem deliver_deliversFrom {s : State} {hi q : SeqNum} (hm : s.mode ≠ .fatal) (hhi : s.fHi = some hi)
    (hnext : s.fNext = some q) (hwin : ∀ o, stored s o = true → dist o hi < 32768) :
    deliversFrom hi q s (deliver Config.seqSpace s) := by
  have hstart := handedOver_zero hnext
  have h := deliver_handedOver (fuel := 65536) (n := 0) (q := q) hhi hwin rfl (by rw [hstart]; exact hm)
    (fun j hj => absurd hj (Nat.not_lt_zero j))
  rwa [hstart] at h

/-- A run of deliveries appends events, and no X24. -/
theorem deliversFrom_appends {hi q : SeqNum} {s t : State} (h : deliversFrom hi q s t) :
    ∃ es, t.events = s.events ++ es ∧ NoRecoveryFault es := by
  obtain ⟨n, -, ht, -⟩ := h
  rw [ht]
  exact (blind_deliverAll (storedRun s q n)).appends _

/-- A run of deliveries leaves the window and the records (R337). -/
theorem deliversFrom_sameFec {hi q : SeqNum} {s t : State} (h : deliversFrom hi q s t) :
    t.fStore = s.fStore ∧ t.fPar = s.fPar := by
  obtain ⟨n, -, ht, -⟩ := h
  have hsame := sameFec_handedOver s q n
  rw [ht]
  exact ⟨hsame.fStore, hsame.fPar⟩

end Sys2Proof.Machine
end

section
/-! PROOFS. REBUILD (R119, R335): the parity of a group and all but one of its payloads give the one back, byte for byte. -/

namespace Sys2Proof.Machine

/-! ## Groups (R328) -/

theorem members_eq (r : ParityRec) : members r = recGroup r := rfl

/-- The numbers of a group are distinct: fewer than 256 steps of fewer than 256 do not turn round the sequence space. -/
theorem nodup_recGroup {r : ParityRec} (h : r.offset ≠ 0#8) : (recGroup r).Nodup := by
  have hoff : 0 < r.offset.toNat := by
    rw [Nat.pos_iff_ne_zero]
    exact fun h0 => h (BitVec.eq_of_toNat_eq h0)
  refine List.Nodup.map_on (fun i hi j hj hij => ?_) List.nodup_range
  have hbound : ∀ k, k < r.na.toNat → k * r.offset.toNat < 65536 := fun k hk => by
    calc k * r.offset.toNat ≤ 255 * 255 := Nat.mul_le_mul (by omega) (by omega)
      _ < 65536 := by decide
  have hsame := congrArg BitVec.toNat ((BitVec.add_right_inj _).mp hij)
  rw [BitVec.toNat_ofNat, BitVec.toNat_ofNat, Nat.mod_eq_of_lt (hbound i (List.mem_range.mp hi)),
    Nat.mod_eq_of_lt (hbound j (List.mem_range.mp hj))] at hsame
  exact Nat.eq_of_mul_eq_mul_right hoff hsame

/-! ## Exclusive or over a group -/

/-- The exclusive or of a quantity of each number of a group. -/
def xorOver {w : Nat} (f : SeqNum → BitVec w) (l : List SeqNum) : BitVec w := l.foldr (fun o b => f o ^^^ b) 0#w

/-- One number of a group apart from the others. -/
theorem xorOver_eq_of_mem {w : Nat} (f : SeqNum → BitVec w) {l : List SeqNum} (hl : l.Nodup) {m : SeqNum} (hm : m ∈ l) :
    xorOver f l = f m ^^^ xorOver f (l.filter fun o => o != m) := by
  induction l with
  | nil => cases hm
  | cons o rest ih =>
    obtain ⟨ho, hrest⟩ := List.nodup_cons.mp hl
    by_cases hom : o = m
    · subst hom
      have hothers : rest.filter (fun x => x != o) = rest :=
        List.filter_eq_self.mpr fun x hx => bne_iff_ne.mpr fun h => ho (h ▸ hx)
      rw [List.filter_cons_of_neg (by simp), hothers]
      rfl
    · have hcons : ∀ l, xorOver f (o :: l) = f o ^^^ xorOver f l := fun _ => rfl
      have hothers : (o :: rest).filter (fun x => x != m) = o :: rest.filter (fun x => x != m) :=
        List.filter_cons_of_pos (by simpa using hom)
      rw [hothers, hcons, hcons, ih hrest ((List.mem_cons.mp hm).resolve_left (Ne.symm hom)),
        ← BitVec.xor_assoc, BitVec.xor_comm (f o), BitVec.xor_assoc]

theorem parityLength_eq (orig : SeqNum → Bytes) (l : List SeqNum) :
    parityLength (l.map orig) = xorOver (fun o => BitVec.ofNat 16 (orig o).length) l := List.foldr_map

theorem xorPad_getD (p q : Bytes) (i : Nat) : (xorPad p q).getD i 0#8 = p.getD i 0#8 ^^^ q.getD i 0#8 := by
  induction p generalizing q i with
  | nil => simp [xorPad]
  | cons a p ih =>
    match q, i with
    | [], _ => simp [xorPad]
    | b :: q, 0 => rfl
    | b :: q, i + 1 => exact ih q i

theorem length_xorPad (p q : Bytes) : (xorPad p q).length = max p.length q.length := by
  induction p generalizing q with
  | nil => simp [xorPad]
  | cons a p ih =>
    cases q with
    | nil => simp [xorPad]
    | cons b q => simp only [xorPad, List.length_cons, ih]; omega

theorem parityPayload_getD (orig : SeqNum → Bytes) (l : List SeqNum) (i : Nat) :
    (parityPayload (l.map orig)).getD i 0#8 = xorOver (fun o => (orig o).getD i 0#8) l := by
  induction l with
  | nil => rfl
  | cons o rest ih =>
    have hcons : parityPayload ((o :: rest).map orig) = xorPad (orig o) (parityPayload (rest.map orig)) := rfl
    rw [hcons, xorPad_getD, ih]
    rfl

/-- The parity payload is as long as the longest payload (R119). -/
theorem length_le_parityPayload {orig : SeqNum → Bytes} {l : List SeqNum} {o : SeqNum} (h : o ∈ l) :
    (orig o).length ≤ (parityPayload (l.map orig)).length := by
  induction l with
  | nil => cases h
  | cons x rest ih =>
    have hcons : parityPayload ((x :: rest).map orig) = xorPad (orig x) (parityPayload (rest.map orig)) := rfl
    rw [hcons, length_xorPad]
    obtain rfl | h := List.mem_cons.mp h
    · exact le_max_left _ _
    · exact (ih h).trans (le_max_right _ _)

/-! ## REBUILD (R335) -/

theorem xorInto_spec {acc q : Bytes} (h : q.length ≤ acc.length) :
    (xorInto acc q).length = acc.length ∧ ∀ i, (xorInto acc q).getD i 0#8 = acc.getD i 0#8 ^^^ q.getD i 0#8 := by
  induction q generalizing acc with
  | nil => exact ⟨by cases acc <;> rfl, fun i => by cases acc <;> simp [xorInto]⟩
  | cons b q ih =>
    cases acc with
    | nil => simp at h
    | cons a acc =>
      obtain ⟨hlen, hat⟩ := ih (Nat.le_of_succ_le_succ h)
      refine ⟨by rw [xorInto, List.length_cons, List.length_cons, hlen], fun i => ?_⟩
      cases i with
      | zero => rfl
      | succ i => exact hat i

/-- The loop over the other members, all of them stored and none longer than the parity payload. -/
theorem rebuildFrom_spec {orig : SeqNum → Bytes} {store : List (Nat × Bytes)} {ms : List SeqNum}
    (hstored : ∀ o ∈ ms, tableGet o.toNat store = some (orig o)) (len : BitVec 16) {acc : Bytes}
    (hfits : ∀ o ∈ ms, (orig o).length ≤ acc.length) :
    ∃ acc', rebuildFrom store ms len acc = some (len ^^^ xorOver (fun o => BitVec.ofNat 16 (orig o).length) ms, acc') ∧
      acc'.length = acc.length ∧
        ∀ i, acc'.getD i 0#8 = acc.getD i 0#8 ^^^ xorOver (fun o => (orig o).getD i 0#8) ms := by
  induction ms generalizing len acc with
  | nil => exact ⟨acc, by simp [rebuildFrom, xorOver], rfl, fun i => by simp [xorOver]⟩
  | cons o rest ih =>
    obtain ⟨ho, hrest⟩ := List.forall_mem_cons.mp hstored
    obtain ⟨hfit, hfits⟩ := List.forall_mem_cons.mp hfits
    obtain ⟨hlen, hat⟩ := xorInto_spec hfit
    obtain ⟨acc', hacc, hlen', hat'⟩ := ih hrest (len ^^^ BitVec.ofNat 16 (orig o).length) (acc := xorInto acc (orig o))
      (by rw [hlen]; exact hfits)
    refine ⟨acc', ?_, hlen'.trans hlen, fun i => ?_⟩
    · simp only [rebuildFrom, ho, Option.getD_some, if_neg (Nat.not_lt.mpr hfit), hacc, BitVec.xor_assoc]
      rfl
    · rw [hat', hat, BitVec.xor_assoc]
      rfl

/-- Two byte sequences that read alike, zeros after their ends, are alike over the length of either. -/
theorem take_eq_of_getD {p q : Bytes} (hlen : q.length ≤ p.length) (h : ∀ i, p.getD i 0#8 = q.getD i 0#8) :
    p.take q.length = q := by
  refine List.ext_getElem (by rw [List.length_take, min_eq_left hlen]) fun i hp hq => ?_
  have hi := h i
  rw [List.getD_eq_getElem _ _ (hq.trans_le hlen), List.getD_eq_getElem _ _ hq] at hi
  rwa [List.getElem_take]

/-- REBUILD gives the missing payload back, byte for byte (R335). -/
theorem rebuild_eq {orig : SeqNum → Bytes} {store : List (Nat × Bytes)} {r : ParityRec} {m : SeqNum}
    (hoff : r.offset ≠ 0#8) (hm : m ∈ recGroup r) (hshort : (orig m).length < 65536)
    (hpayload : r.payload = parityPayload ((recGroup r).map orig)) (hlenrec : r.lenrec = parityLength ((recGroup r).map orig))
    (hstored : ∀ o ∈ recGroup r, o ≠ m → tableGet o.toNat store = some (orig o)) : rebuild store r m = some (orig m) := by
  have hnodup := nodup_recGroup hoff
  obtain ⟨acc, hacc, hlen, hat⟩ := rebuildFrom_spec (ms := (recGroup r).filter fun o => o != m)
    (fun o ho => hstored o (List.mem_of_mem_filter ho) (bne_iff_ne.mp (List.mem_filter.mp ho).2)) r.lenrec
    (acc := r.payload) (fun o ho => hpayload ▸ length_le_parityPayload (List.mem_of_mem_filter ho))
  have hcancel : ∀ {w : Nat} (x y : BitVec w), x ^^^ y ^^^ y = x := fun x y => by
    rw [BitVec.xor_assoc, BitVec.xor_self, BitVec.xor_zero]
  have hlength : r.lenrec ^^^ xorOver (fun o => BitVec.ofNat 16 (orig o).length) ((recGroup r).filter fun o => o != m) =
      BitVec.ofNat 16 (orig m).length := by
    rw [hlenrec, parityLength_eq, xorOver_eq_of_mem _ hnodup hm, hcancel]
  have hbytes : ∀ i, acc.getD i 0#8 = (orig m).getD i 0#8 := fun i => by
    rw [hat, hpayload, parityPayload_getD, xorOver_eq_of_mem _ hnodup hm, hcancel]
  have hnat : (BitVec.ofNat 16 (orig m).length).toNat = (orig m).length := by
    rw [BitVec.toNat_ofNat]; exact Nat.mod_eq_of_lt hshort
  have hfit : (orig m).length ≤ acc.length := by rw [hlen, hpayload]; exact length_le_parityPayload hm
  rw [rebuild, members_eq, hacc, hlength]
  simp only [hnat, if_neg (Nat.not_lt.mpr hfit), take_eq_of_getD hfit hbytes]

end Sys2Proof.Machine
end

section
/-! PROOFS. Recovery (R324, R330 to R336): FEC.INSERT of a number the window takes, one scan of the records where every lost packet
can be rebuilt, and the invariant of RECOVER's passes. -/

namespace Sys2Proof.Machine

/-! ## Circular distances (R18) -/

theorem dist_lt_size (a b : SeqNum) : dist a b < 65536 := (b - a).isLt

theorem dist_reverse (a b : SeqNum) : dist b a = (65536 - dist a b) % 65536 := by simp only [dist]; bv_omega

theorem newer_iff {a b : SeqNum} : newer a b = true ↔ 0 < dist a b ∧ dist a b < 32768 := by simp [newer]

/-- A distance by the places of its ends as seen from `hi`. -/
theorem dist_from (hi a b : SeqNum) : dist a b = (65536 - dist hi a + dist hi b) % 65536 := by
  simp only [dist]; bv_omega

/-! ## FEC.INSERT (R324, R326) -/

/-- What the window holds after eviction. -/
theorem tableGet_evict (p : Config.Params) (hi o : SeqNum) (t : List (Nat × Bytes)) :
    tableGet o.toNat (evict p hi t) = if dist o hi < p.fecRetain then tableGet o.toNat t else none := by
  rw [evict, tableGet_filter_key (fun n => retained p hi (BitVec.ofNat 16 n)), BitVec.ofNat_toNat, BitVec.setWidth_eq,
    retained]
  simp only [decide_eq_true_eq]

/-- FEC.INSERT of a number that the window takes and does not hold. -/
theorem fecInsert_enters {s : State} {hi m : SeqNum} (p : Bytes) (hvalid : s.params.Valid) (hhi : s.fHi = some hi)
    (hnew : stored s m = false) (htaken : (0 < dist hi m ∧ dist hi m < 32768) ∨ dist m hi < s.params.fecRetain) :
    (fecInsert m p s).1 = { s with fHi := (fecInsert m p s).1.fHi, fStore := (fecInsert m p s).1.fStore } ∧
      (fecInsert m p s).2 = true ∧ windowWith hi m p s (fecInsert m p s).1 := by
  have hfree : (tableGet m.toNat s.fStore).isSome = false := hnew
  have hread : ∀ h o : SeqNum, dist m h < s.params.fecRetain →
      tableGet o.toNat (evict s.params h (tablePut m.toNat p s.fStore)) =
        if o = m then some p else if dist o h < s.params.fecRetain then tableGet o.toNat s.fStore else none := by
    intro h o hm
    rw [tableGet_evict]
    by_cases hom : o = m
    · subst hom
      simp [hm]
    · rw [tableGet_put_other (fun h => hom (BitVec.eq_of_toNat_eq h)), if_neg hom]
  by_cases hn : 0 < dist hi m ∧ dist hi m < 32768
  · have hins : fecInsert m p s =
        ({ s with fHi := some m, fStore := evict s.params m (tablePut m.toNat p s.fStore) }, true) := by
      simp [fecInsert, hhi, newer_iff.mpr hn, fecStore, hfree]
    rw [hins, windowWith, if_pos hn]
    exact ⟨rfl, rfl, rfl, fun o => hread m o (by rw [dist_self]; exact hvalid.2.1)⟩
  · have hm := htaken.resolve_left hn
    have hins : fecInsert m p s = ({ s with fStore := evict s.params hi (tablePut m.toNat p s.fStore) }, true) := by
      simp [fecInsert, hhi, newer_iff, hn, retained, hm, fecStore, hfree]
    rw [hins, windowWith, if_neg hn]
    exact ⟨rfl, rfl, hhi, fun o => hread hi o hm⟩

/-! ## One scan (R330 to R335) -/

theorem dead_iff {s : State} {hi : SeqNum} {r : ParityRec} :
    dead s.params hi r = true ↔ ∃ o ∈ recGroup r, leftWindow hi o s := by
  simp only [dead, members_eq, List.any_eq_true, Bool.and_eq_true, decide_eq_true_eq, leftWindow, and_comm]

theorem mem_missing_iff {store : List (Nat × Bytes)} {r : ParityRec} {o : SeqNum} :
    o ∈ missing store r ↔ o ∈ recGroup r ∧ tableGet o.toNat store = none := by
  simp [missing, members_eq]

/-- The record stays in F_PAR: none of its members has left the window, and two are missing (R333). -/
def waits (p : Config.Params) (hi : SeqNum) (store : List (Nat × Bytes)) (r : ParityRec) : Bool :=
  !dead p hi r && 2 ≤ (missing store r).length

/-- The record asks for the rebuild of `m` (R334). -/
def asksFor (p : Config.Params) (hi : SeqNum) (store : List (Nat × Bytes)) (r : ParityRec) (m : SeqNum) : Prop :=
  dead p hi r = false ∧ missing store r = [m]

section
variable {p : Config.Params} {hi : SeqNum} {store : List (Nat × Bytes)}

/-- A record that asks for nothing stays or goes. -/
theorem scan_cons_of_idle {r : ParityRec} (h : ∀ m, ¬ asksFor p hi store r m) (rest : List ParityRec) :
    scan p hi store (r :: rest) =
      if waits p hi store r then (scan p hi store rest).keeping r else scan p hi store rest := by
  rw [scan]
  by_cases hd : dead p hi r = true
  · simp [hd, waits]
  · rw [Bool.not_eq_true] at hd
    match hm : missing store r with
    | [] => simp [hd, waits, hm]
    | [m] => exact absurd ⟨hd, hm⟩ (h m)
    | _ :: _ :: _ => simp [hd, waits, hm]

theorem scan_cons_of_asksFor {r : ParityRec} {m : SeqNum} {pay : Bytes} (h : asksFor p hi store r m)
    (hpay : rebuild store r m = some pay) (rest : List ParityRec) :
    scan p hi store (r :: rest) = { keep := rest, failed := [], hit := some (m, pay) } := by
  simp only [scan, h.1, h.2, hpay, Bool.false_eq_true, if_false]

/-- A scan without a rebuild: the records that wait stay. -/
theorem scan_of_idle {rs : List ParityRec} (h : ∀ r ∈ rs, ∀ m, ¬ asksFor p hi store r m) :
    scan p hi store rs = { keep := rs.filter (waits p hi store), failed := [], hit := none } := by
  induction rs with
  | nil => rfl
  | cons r rest ih =>
    obtain ⟨hr, hrest⟩ := List.forall_mem_cons.mp h
    rw [scan_cons_of_idle hr, ih hrest, List.filter_cons]
    split <;> rfl

/-- A scan up to the first rebuild. -/
theorem scan_of_hit {before after : List ParityRec} {r : ParityRec} {m : SeqNum} {pay : Bytes}
    (hbefore : ∀ r ∈ before, ∀ m, ¬ asksFor p hi store r m) (hr : asksFor p hi store r m)
    (hpay : rebuild store r m = some pay) :
    scan p hi store (before ++ r :: after) =
      { keep := before.filter (waits p hi store) ++ after, failed := [], hit := some (m, pay) } := by
  induction before with
  | nil => exact scan_cons_of_asksFor hr hpay after
  | cons x rest ih =>
    obtain ⟨hx, hrest⟩ := List.forall_mem_cons.mp hbefore
    rw [List.cons_append, scan_cons_of_idle hx, ih hrest, List.filter_cons]
    split <;> rfl

/-- The first record that asks for a rebuild, if there is one. -/
theorem idle_or_first_asksFor (p : Config.Params) (hi : SeqNum) (store : List (Nat × Bytes)) (rs : List ParityRec) :
    (∀ r ∈ rs, ∀ m, ¬ asksFor p hi store r m) ∨
      ∃ before r m after, rs = before ++ r :: after ∧ (∀ r ∈ before, ∀ m, ¬ asksFor p hi store r m) ∧
        asksFor p hi store r m := by
  induction rs with
  | nil => exact .inl fun r hr => by cases hr
  | cons r rest ih =>
    by_cases hr : ∃ m, asksFor p hi store r m
    · obtain ⟨m, hm⟩ := hr
      exact .inr ⟨[], r, m, rest, rfl, fun _ hx => absurd hx List.not_mem_nil, hm⟩
    · rw [not_exists] at hr
      obtain hidle | ⟨before, x, m, after, rfl, hbefore, hx⟩ := ih
      · exact .inl (List.forall_mem_cons.mpr ⟨hr, hidle⟩)
      · exact .inr ⟨r :: before, x, m, after, rfl, List.forall_mem_cons.mpr ⟨hr, hbefore⟩, hx⟩

end

/-! ## The invariant of RECOVER's passes (R330, R336) -/

/-- The record is of no more use: a member is behind the window, or all are stored (R331, R332). -/
def Spent (s : State) (h : SeqNum) (σ : State) (r : ParityRec) : Prop :=
  (∃ o ∈ recGroup r, leftWindow h o s) ∨ ∀ o ∈ recGroup r, stored σ o = true

/-- The number is in the window behind `hi`, or so little ahead of `hi` that the window behind it does not turn. -/
def Near (s : State) (hi o : SeqNum) : Prop :=
  dist o hi < s.params.fecRetain ∨ dist hi o + s.params.fecRetain ≤ 32768

/-- Where RECOVER stands with `F_HI` = `h`, having begun in `s` with `F_HI` = `hi` and `records`. -/
structure Recovering (orig : SeqNum → Bytes) (hi : SeqNum) (records : List ParityRec) (s : State) (h : SeqNum)
    (σ : State) : Prop where
  frame : σ = { s with fHi := some h, fStore := σ.fStore, fPar := σ.fPar }
  head : h = hi ∨ (0 < dist hi h ∧ stored s h = false ∧ stored σ h = true)
  reach : dist hi h + s.params.fecRetain ≤ 32768
  entries : ∀ (o : SeqNum) p, tableGet o.toNat σ.fStore = some p → dist o h < s.params.fecRetain ∧
    (tableGet o.toNat s.fStore = some p ∨
      (stored s o = false ∧ p = orig o ∧ ∃ r ∈ records, Spent s h σ r ∧ o ∈ recGroup r))
  kept : ∀ o, stored s o = true → dist o h < s.params.fecRetain → stored σ o = true
  sublist : σ.fPar.Sublist records
  gone : ∀ r ∈ records, r ∉ σ.fPar → Spent s h σ r

theorem recovering_start (orig : SeqNum → Bytes) {hi : SeqNum} {s : State} (hs : FecInv s) (hhi : s.fHi = some hi) :
    Recovering orig hi s.fPar s hi s where
  frame := by rw [← hhi]
  head := .inl rfl
  reach := by
    obtain ⟨⟨-, -, hretain, -⟩, -⟩ := hs
    rw [dist_self]
    omega
  entries o p ho := by
    obtain ⟨-, -, -, hwin, -⟩ := hs
    exact ⟨hwin hi hhi o (by rw [ho]; rfl), .inl ho⟩
  kept o ho _ := ho
  sublist := List.Sublist.refl _
  gone r hr hn := absurd hr hn

section
variable {orig : SeqNum → Bytes} {hi h : SeqNum} {records : List ParityRec} {s σ : State}

theorem not_spent_of_waits {r : ParityRec} (hr : waits s.params h σ.fStore r = true) : ¬ Spent s h σ r := by
  obtain ⟨hlive, htwo⟩ := Bool.and_eq_true_iff.mp hr
  rintro (hleft | hall)
  · rw [dead_iff.mpr hleft] at hlive
    cases hlive
  · have hnone : missing σ.fStore r = [] := List.eq_nil_iff_forall_not_mem.mpr fun o ho => by
      obtain ⟨ho, hget⟩ := mem_missing_iff.mp ho
      have hst := hall o ho
      rw [stored, hget] at hst
      cases hst
    rw [hnone] at htwo
    simp at htwo

theorem spent_of_not_waits {r : ParityRec} (hidle : ∀ m, ¬ asksFor s.params h σ.fStore r m)
    (hr : waits s.params h σ.fStore r = false) : Spent s h σ r := by
  by_cases hd : dead s.params h r = true
  · exact .inl (dead_iff.mp hd)
  · rw [Bool.not_eq_true] at hd
    refine .inr fun o ho => ?_
    by_contra hst
    have homit := mem_missing_iff.mpr ⟨ho, by simpa [stored] using hst⟩
    match hm : missing σ.fStore r with
    | [] => rw [hm] at homit; cases homit
    | [m] => exact hidle m ⟨hd, hm⟩
    | _ :: _ :: _ => simp [waits, hd, hm] at hr

theorem two_missing_of_waits {r : ParityRec} (hoff : r.offset ≠ 0#8) (hr : waits s.params h σ.fStore r = true) :
    ∃ a ∈ recGroup r, ∃ b ∈ recGroup r, a ≠ b ∧ stored σ a = false ∧ stored σ b = false := by
  have htwo := of_decide_eq_true (Bool.and_eq_true_iff.mp hr).2
  have hnodup : (missing σ.fStore r).Nodup := (nodup_recGroup hoff).filter _
  obtain ⟨a, b, rest, hm⟩ : ∃ a b rest, missing σ.fStore r = a :: b :: rest := by
    match missing σ.fStore r, htwo with
    | a :: b :: rest, _ => exact ⟨a, b, rest, rfl⟩
  have hmem : ∀ o ∈ [a, b], o ∈ recGroup r ∧ stored σ o = false := fun o ho => by
    obtain ⟨hgroup, hget⟩ := mem_missing_iff.mp (show o ∈ missing σ.fStore r by
      rw [hm]; exact List.mem_append_left rest ho)
    exact ⟨hgroup, by rw [stored, hget]; rfl⟩
  rw [hm] at hnodup
  exact ⟨a, (hmem a (by simp)).1, b, (hmem b (by simp)).1, by rintro rfl; simp at hnodup, (hmem a (by simp)).2,
    (hmem b (by simp)).2⟩

/-- A scan that finds nothing to rebuild ends RECOVER as it should. -/
theorem Recovering.ends (hrec : Recovering orig hi records s h σ) (hvalid : s.params.Valid)
    (hoff : ∀ r ∈ records, r.offset ≠ 0#8) (hidle : ∀ r ∈ σ.fPar, ∀ m, ¬ asksFor s.params h σ.fStore r m) :
    recoversFrom orig hi records s { σ with fPar := σ.fPar.filter (waits s.params h σ.fStore) } := by
  have hwaits : ∀ r ∈ σ.fPar.filter (waits s.params h σ.fStore), r ∈ records ∧ waits s.params h σ.fStore r = true :=
    fun r hr => (List.mem_filter.mp hr).imp_left (hrec.sublist.subset ·)
  have hspent : ∀ r ∈ records, r ∉ σ.fPar.filter (waits s.params h σ.fStore) → Spent s h σ r := fun r hr hn => by
    by_cases hmem : r ∈ σ.fPar
    · exact spent_of_not_waits (hidle r hmem) (Bool.eq_false_iff.mpr fun hw => hn (List.mem_filter.mpr ⟨hmem, hw⟩))
    · exact hrec.gone r hr hmem
  have hhalf : dist hi h < 32768 := by
    have hreach := hrec.reach
    have hretain := hvalid.2.1
    omega
  refine ⟨h, ?_, hrec.head.imp_right fun ⟨hpos, hnew, hst⟩ => ⟨hpos, hhalf, hnew, hst⟩, fun o p ho => ?_,
    hrec.kept, List.filter_sublist.trans hrec.sublist, fun r hr => ?_, hspent⟩
  · rw [hrec.frame]
  · obtain ⟨hin, hold | ⟨hnew, hp, r, hr, hsp, hmem⟩⟩ := hrec.entries o p ho
    · exact ⟨hin, .inl hold⟩
    · exact ⟨hin, .inr ⟨hnew, hp, r, hr, fun hw => not_spent_of_waits (hwaits r hw).2 hsp, hmem⟩⟩
  · obtain ⟨hmem, hw⟩ := hwaits r hr
    exact ⟨fun o ho hleft => not_spent_of_waits hw (.inl ⟨o, ho, hleft⟩), two_missing_of_waits (hoff r hmem) hw⟩

end

/-! ## Where a number near F_HI stands -/

section
variable {s : State} {hi h o : SeqNum} (hretain : 1 ≤ s.params.fecRetain) (hreach : dist hi h + s.params.fecRetain ≤ 32768)
include hretain hreach

/-- FEC.INSERT takes a near number that is not behind the window. -/
theorem taken_of_near (hnear : Near s hi o) (hin : ¬ leftWindow h o s) :
    (0 < dist h o ∧ dist h o < 32768) ∨ dist o h < s.params.fecRetain := by
  have hback := dist_reverse hi o
  have hfore := dist_from hi h o
  have haft := dist_from hi o h
  have hsize := dist_lt_size hi o
  simp only [Near, leftWindow] at hnear hin
  omega

/-- F_HI moves to a near number only so far that the window does not turn. -/
theorem reach_of_near (hnear : Near s hi o) (hnew : 0 < dist h o ∧ dist h o < 32768) :
    0 < dist hi o ∧ dist hi o + s.params.fecRetain ≤ 32768 := by
  have hback := dist_reverse hi o
  have hfore := dist_from hi h o
  have hsize := dist_lt_size hi o
  simp only [Near] at hnear
  omega

/-- What is behind `F_HI` falls back and stays behind. -/
theorem falls_back {k : SeqNum} (hfrom : dist hi k + s.params.fecRetain ≤ 32768) (hnear : Near s hi o) (hbehind : dist o k < 32768)
    (hadv : h = k ∨ (0 < dist k h ∧ dist k h < 32768)) : dist o k ≤ dist o h ∧ dist o h < 32768 := by
  obtain rfl | hadv := hadv
  · exact ⟨le_rfl, hbehind⟩
  · have hback := dist_reverse hi o
    have hfore := dist_from hi k h
    have hbehind' := dist_from hi o k
    have haft := dist_from hi o h
    have hsize := dist_lt_size hi o
    have hsize' := dist_lt_size hi k
    simp only [Near] at hnear
    omega

end

/-! ## One rebuild (R334 to R336) -/

section
variable {orig : SeqNum → Bytes} {hi h : SeqNum} {records : List ParityRec} {s σ : State}

/-- The number asked for is missing and not behind the window, and no other member is missing. -/
theorem asksFor_spec {store : List (Nat × Bytes)} {r : ParityRec} {m : SeqNum} (hasks : asksFor s.params h store r m) :
    (∀ o, o ∈ recGroup r ∧ tableGet o.toNat store = none ↔ o = m) ∧ ¬ leftWindow h m s := by
  obtain ⟨hdead, hone⟩ := hasks
  have hmissing : ∀ o, o ∈ recGroup r ∧ tableGet o.toNat store = none ↔ o = m := fun o => by
    rw [← mem_missing_iff, hone, List.mem_singleton]
  refine ⟨hmissing, fun hleft => ?_⟩
  rw [dead_iff.mpr ⟨m, ((hmissing m).mpr rfl).1, hleft⟩] at hdead
  cases hdead

/-- What is stored once `m` has come into the window. -/
theorem stored_windowWith {m : SeqNum} {p : Bytes} {t : State} (hin : windowWith h m p σ t) {h' : SeqNum}
    (hhi : t.fHi = some h') (o : SeqNum) :
    stored t o = true ↔ o = m ∨ (dist o h' < σ.params.fecRetain ∧ stored σ o = true) := by
  obtain ⟨hhi', hread⟩ := hin
  rw [← Option.some.inj (hhi.symm.trans hhi')] at hread
  rw [stored, hread o]
  split
  · simp [*]
  · split <;> simp [stored, *]

/-- What is stored then is `m`'s payload or was stored before. -/
theorem entry_of_windowWith {m o : SeqNum} {p q : Bytes} {t : State} (hin : windowWith h m p σ t)
    (ho : tableGet o.toNat t.fStore = some q) : (o = m ∧ q = p) ∨ tableGet o.toNat σ.fStore = some q := by
  have hread := (hin.2 o).symm.trans ho
  by_cases hom : o = m
  · rw [if_pos hom] at hread
    exact .inl ⟨hom, (Option.some.inj hread).symm⟩
  · rw [if_neg hom] at hread
    exact .inr (Option.ite_none_right_eq_some.mp hread).2

/-- F_HI goes from `h` to `h'` as `m` comes into the window, and stays near `hi`. -/
structure HeadMoves (s : State) (hi h m h' : SeqNum) : Prop where
  reach : dist hi h' + s.params.fecRetain ≤ 32768
  move : (h' = m ∧ 0 < dist h m ∧ dist h m < 32768 ∧ 0 < dist hi m) ∨ h' = h
  inside : dist m h' < s.params.fecRetain

theorem HeadMoves.ahead {m h' : SeqNum} (hmv : HeadMoves s hi h m h') : h' = h ∨ (0 < dist h h' ∧ dist h h' < 32768) := by
  obtain ⟨rfl, hpos, hhalf, -⟩ | rfl := hmv.move
  · exact .inr ⟨hpos, hhalf⟩
  · exact .inl rfl

theorem headMoves_of_windowWith {m : SeqNum} {p : Bytes} {t : State} (hretain : 1 ≤ s.params.fecRetain)
    (hreach : dist hi h + s.params.fecRetain ≤ 32768) (hnear : Near s hi m) (hlive : ¬ leftWindow h m s)
    (hin : windowWith h m p σ t) : ∃ h', t.fHi = some h' ∧ HeadMoves s hi h m h' := by
  have htaken := taken_of_near hretain hreach hnear hlive
  refine ⟨_, hin.1, ?_⟩
  split
  · next hn =>
    obtain ⟨hpos, hreach'⟩ := reach_of_near hretain hreach hnear hn
    exact ⟨hreach', .inl ⟨rfl, hn.1, hn.2, hpos⟩, by rw [dist_self]; exact hretain⟩
  · next hn => exact ⟨hreach, .inr rfl, htaken.resolve_left hn⟩

theorem Recovering.behind (hrec : Recovering orig hi records s h σ) (hretain : 1 ≤ s.params.fecRetain) {o : SeqNum}
    (hold : dist o hi < s.params.fecRetain) : dist o h < 32768 := by
  have hreach := hrec.reach
  refine (falls_back hretain hreach (k := hi) ?_ (.inl hold) ?_ ?_).2
  · rw [dist_self]; omega
  · omega
  · exact hrec.head.imp_right fun ⟨hpos, _⟩ => ⟨hpos, by omega⟩

/-- What the passes so far have not kept, and FEC.INSERT would take, was not stored at the start. -/
theorem Recovering.unstored (hrec : Recovering orig hi records s h σ) (hretain : 1 ≤ s.params.fecRetain)
    (hwin : ∀ o, stored s o = true → dist o hi < s.params.fecRetain) {m : SeqNum} (hm : stored σ m = false)
    (hlive : ¬ leftWindow h m s) : stored s m = false := by
  by_contra hs
  rw [Bool.not_eq_false] at hs
  by_cases hd : dist m h < s.params.fecRetain
  · rw [hrec.kept m hs hd] at hm
    cases hm
  · exact hlive ⟨Nat.le_of_not_lt hd, hrec.behind hretain (hwin m hs)⟩

/-- A record of no use stays so, and one all of whose members are stored or come into the window becomes so. -/
theorem Recovering.spent_advance (hrec : Recovering orig hi records s h σ) (hretain : 1 ≤ s.params.fecRetain)
    {m h' : SeqNum} (hmv : HeadMoves s hi h m h') {t : State}
    (hst : ∀ o, stored t o = true ↔ o = m ∨ (dist o h' < s.params.fecRetain ∧ stored σ o = true)) {x : ParityRec}
    (hnear : ∀ o ∈ recGroup x, Near s hi o)
    (hx : (∃ o ∈ recGroup x, leftWindow h o s) ∨ ∀ o ∈ recGroup x, o = m ∨ stored σ o = true) : Spent s h' t x := by
  have hfall : ∀ o ∈ recGroup x, dist o h < 32768 → dist o h ≤ dist o h' ∧ dist o h' < 32768 :=
    fun o ho hb => falls_back hretain hmv.reach hrec.reach (hnear o ho) hb hmv.ahead
  by_cases hleft : ∃ o ∈ recGroup x, leftWindow h' o s
  · exact .inl hleft
  obtain ⟨o, ho, hout, hbehind⟩ | hall := hx
  · have hb := hfall o ho hbehind
    exact .inl ⟨o, ho, hout.trans hb.1, hb.2⟩
  · refine .inr fun o ho => (hst o).mpr ((hall o ho).imp_right fun hso => ⟨?_, hso⟩)
    by_contra hout
    obtain ⟨p, hp⟩ := Option.isSome_iff_exists.mp hso
    have hreach := hrec.reach
    have hinside := (hrec.entries o p hp).1
    exact hleft ⟨o, ho, Nat.le_of_not_lt hout, (hfall o ho (by omega)).2⟩

/-- RECOVER's invariant after one more packet has been rebuilt and has come into the window. -/
theorem Recovering.rebuilt (hrec : Recovering orig hi records s h σ) (hretain : 1 ≤ s.params.fecRetain)
    (hwin : ∀ o, stored s o = true → dist o hi < s.params.fecRetain)
    (hnear : ∀ r ∈ records, ∀ o ∈ recGroup r, Near s hi o) {before after : List ParityRec} {r : ParityRec} {m : SeqNum}
    (hpar : σ.fPar = before ++ r :: after) (hidle : ∀ r ∈ before, ∀ m, ¬ asksFor s.params h σ.fStore r m)
    (hasks : asksFor s.params h σ.fStore r m) {t : State}
    (hframe : t = { s with fHi := t.fHi, fStore := t.fStore, fPar := t.fPar })
    (hkeep : t.fPar = before.filter (waits s.params h σ.fStore) ++ after) (hin : windowWith h m (orig m) σ t) :
    ∃ h', t.fHi = some h' ∧ Recovering orig hi records s h' t := by
  have hr : r ∈ records := hrec.sublist.subset (by rw [hpar]; simp)
  obtain ⟨hmissing, hlive⟩ := asksFor_spec hasks
  obtain ⟨hm, hget⟩ := (hmissing m).mpr rfl
  have hnew : stored s m = false := hrec.unstored hretain hwin (by rw [stored, hget]; rfl) hlive
  obtain ⟨h', hhi, hmv⟩ := headMoves_of_windowWith hretain hrec.reach (hnear r hr m hm) hlive hin
  have hparams : σ.params = s.params := by rw [hrec.frame]
  have hst := stored_windowWith hin hhi
  rw [hparams] at hst
  have hspent : ∀ x ∈ records, Spent s h σ x → Spent s h' t x := fun x hx hsp =>
    hrec.spent_advance hretain hmv hst (hnear x hx) (hsp.imp_right fun hall o ho => .inr (hall o ho))
  have hspentr : Spent s h' t r := hrec.spent_advance hretain hmv hst (hnear r hr) <| .inr fun o ho => by
    by_contra hne
    rw [not_or] at hne
    exact hne.1 ((hmissing o).mp ⟨ho, by simpa [stored] using hne.2⟩)
  refine ⟨h', hhi, by rw [← hhi]; exact hframe, ?_, hmv.reach, fun o p ho => ?_, fun o ho hd => ?_, ?_, fun x hx hn => ?_⟩
  · obtain ⟨rfl, -, -, hpos⟩ | rfl := hmv.move
    · exact .inr ⟨hpos, hnew, (hst _).mpr (.inl rfl)⟩
    · exact hrec.head.imp_right fun ⟨hpos, hn, hs⟩ =>
        ⟨hpos, hn, (hst _).mpr (.inr ⟨by rw [dist_self]; exact hretain, hs⟩)⟩
  · have hinside : dist o h' < s.params.fecRetain :=
      ((hst o).mp (by rw [stored, ho]; rfl)).elim (fun h => h ▸ hmv.inside) And.left
    obtain ⟨rfl, rfl⟩ | hold := entry_of_windowWith hin ho
    · exact ⟨hinside, .inr ⟨hnew, rfl, r, hr, hspentr, hm⟩⟩
    · refine ⟨hinside, (hrec.entries o p hold).2.imp_right ?_⟩
      rintro ⟨hn, hp, x, hx, hsp, hox⟩
      exact ⟨hn, hp, x, hx, hspent x hx hsp, hox⟩
  · have hback := falls_back hretain hmv.reach hrec.reach (.inl (hwin o ho)) (hrec.behind hretain (hwin o ho)) hmv.ahead
    exact (hst o).mpr (.inr ⟨hd, hrec.kept o ho (hback.1.trans_lt hd)⟩)
  · rw [hkeep]
    refine List.Sublist.trans ?_ hrec.sublist
    rw [hpar]
    exact List.filter_sublist.append (List.sublist_cons_self r after)
  · rw [hkeep, List.mem_append, not_or] at hn
    by_cases hmem : x ∈ σ.fPar
    · rw [hpar, List.mem_append, List.mem_cons] at hmem
      obtain hb | rfl | ha := hmem
      · exact hspent x hx <| spent_of_not_waits (hidle x hb)
          (Bool.eq_false_iff.mpr fun hw => hn.1 (List.mem_filter.mpr ⟨hb, hw⟩))
      · exact hspentr
      · exact absurd ha hn.2
    · exact hspent x hx (hrec.gone x hx hmem)

end

/-! ## RECOVER (R330, R336) -/

section
variable {s : State} {h : SeqNum} {fuel : Nat} (hhi : s.fHi = some h)
include hhi

/-- A pass without a rebuild is the last. -/
theorem recover_of_idle (hidle : ∀ r ∈ s.fPar, ∀ m, ¬ asksFor s.params h s.fStore r m) :
    recover (fuel + 1) s = { s with fPar := s.fPar.filter (waits s.params h s.fStore) } := by
  simp [recover, hhi, scan_of_idle hidle, emitAll]

/-- A pass with a rebuild. -/
theorem recover_of_hit {before after : List ParityRec} {r : ParityRec} {m : SeqNum} {pay : Bytes}
    (hpar : s.fPar = before ++ r :: after) (hidle : ∀ r ∈ before, ∀ m, ¬ asksFor s.params h s.fStore r m)
    (hasks : asksFor s.params h s.fStore r m) (hpay : rebuild s.fStore r m = some pay) :
    recover (fuel + 1) s = recover fuel
      (fecInsert m pay { s with fPar := before.filter (waits s.params h s.fStore) ++ after }).1 := by
  simp [recover, hhi, hpar, scan_of_hit hidle hasks hpay, emitAll]

end

section
variable {orig : SeqNum → Bytes} {hi : SeqNum} {records : List ParityRec} {s : State}

/-- A rebuild that the passes ask for gives the original: the other members are stored, and all that is stored is original. -/
theorem Recovering.rebuild_eq {h : SeqNum} {σ : State} (hrec : Recovering orig hi records s h σ)
    (hfrom : fecFrom orig records s) {r : ParityRec} {m : SeqNum} (hr : r ∈ records) (hoff : r.offset ≠ 0#8)
    (hasks : asksFor s.params h σ.fStore r m) : rebuild σ.fStore r m = some (orig m) := by
  obtain ⟨horig, hpar⟩ := hfrom
  obtain ⟨hshort, hpayload, hlenrec⟩ := hpar r hr
  obtain ⟨hmissing, -⟩ := asksFor_spec hasks
  obtain ⟨hm, -⟩ := (hmissing m).mpr rfl
  refine Machine.rebuild_eq hoff hm (hshort m hm) hpayload hlenrec fun o ho hne => ?_
  cases hget : tableGet o.toNat σ.fStore with
  | none => exact absurd ((hmissing o).mp ⟨ho, hget⟩) hne
  | some p =>
    obtain ⟨-, hold | ⟨-, hp, -⟩⟩ := hrec.entries o p hget
    · rw [horig o p hold]
    · rw [hp]

/-- RECOVER's passes, from any point on. -/
theorem Recovering.recovers (hvalid : s.params.Valid) (hwin : ∀ o, stored s o = true → dist o hi < s.params.fecRetain)
    (hnear : ∀ r ∈ records, ∀ o ∈ recGroup r, Near s hi o) (hfrom : fecFrom orig records s)
    (hoff : ∀ r ∈ records, r.offset ≠ 0#8) (fuel : Nat) {h : SeqNum} {σ : State}
    (hrec : Recovering orig hi records s h σ) (hfuel : σ.fPar.length ≤ fuel) :
    recoversFrom orig hi records s (recover fuel σ) := by
  induction fuel generalizing h σ with
  | zero =>
    have hnil := List.eq_nil_of_length_eq_zero (Nat.le_zero.mp hfuel)
    have hend := hrec.ends hvalid hoff (by rw [hnil]; exact fun _ hr => absurd hr List.not_mem_nil)
    rw [hnil, List.filter_nil, ← hnil] at hend
    exact hend
  | succ fuel ih =>
    have hhi : σ.fHi = some h := by rw [hrec.frame]
    have hparams : σ.params = s.params := by rw [hrec.frame]
    obtain hidle | ⟨before, r, m, after, hpar, hidle, hasks⟩ := idle_or_first_asksFor σ.params h σ.fStore σ.fPar
    · have hend := hrec.ends hvalid hoff (hparams ▸ hidle)
      rw [← hparams] at hend
      rwa [recover_of_idle hhi hidle]
    · have hr : r ∈ records := hrec.sublist.subset (by rw [hpar]; simp)
      have hasks' : asksFor s.params h σ.fStore r m := hparams ▸ hasks
      have hpay := hrec.rebuild_eq hfrom hr (hoff r hr) hasks'
      obtain ⟨hmissing, hlive⟩ := asksFor_spec hasks'
      obtain ⟨hm, hget⟩ := (hmissing m).mpr rfl
      have htaken := taken_of_near hvalid.2.1 hrec.reach (hnear r hr m hm) hlive
      rw [recover_of_hit hhi hpar hidle hasks hpay]
      obtain ⟨hframe, -, hin⟩ := fecInsert_enters
        (s := { σ with fPar := before.filter (waits σ.params h σ.fStore) ++ after }) (orig m) (hparams ▸ hvalid) hhi
        (by rw [stored, hget]; rfl) (hparams ▸ htaken)
      have hkeep := congrArg State.fPar hframe
      obtain ⟨h', -, hrec'⟩ := hrec.rebuilt hvalid.2.1 hwin hnear hpar (hparams ▸ hidle) hasks'
        (by rw [hframe, hrec.frame]) (hparams ▸ hkeep) hin
      refine ih hrec' ?_
      rw [hkeep]
      rw [hpar] at hfuel
      have hfilter := List.length_filter_le (waits σ.params h σ.fStore) before
      simp only [List.length_append, List.length_cons] at hfuel ⊢
      omega

end

theorem offset_ne_zero {s : State} (hs : FecInv s) {r : ParityRec} (hr : r ∈ s.fPar) : r.offset ≠ 0#8 := by
  obtain ⟨-, -, -, -, -, hok⟩ := hs
  have hr := List.all_eq_true.mp hok r hr
  simp only [ParityRec.ok, Bool.and_eq_true, bne_iff_ne] at hr
  exact hr.1.2

/-- RECOVER where the records and the window are made from one set of payloads and no member is far ahead (R330, R336). -/
theorem recover_recoversFrom {orig : SeqNum → Bytes} {hi : SeqNum} {s : State} (hs : FecInv s) (hhi : s.fHi = some hi)
    (hnear : ∀ r ∈ s.fPar, ∀ o ∈ recGroup r, Near s hi o) (hfrom : fecFrom orig s.fPar s) :
    recoversFrom orig hi s.fPar s (recover s.fPar.length s) := by
  obtain ⟨hvalid, -, -, hwin, -⟩ := id hs
  exact (recovering_start orig hs hhi).recovers hvalid (hwin hi hhi) hnear hfrom (fun _ hr => offset_ne_zero hs hr) _ le_rfl

end Sys2Proof.Machine
end

section
/-! PROOFS. FEC.COL and FEC.ROW (R327): a parity record joins the waiting ones, what it lets rebuild is rebuilt, and delivery goes on. -/

namespace Sys2Proof.Machine

/-! ## FEC.PARITY (R327, R329) -/

/-- The waiting records with one more, the oldest giving way at FEC_PAR_CAP. -/
def waitingWith (r : ParityRec) (s : State) : List ParityRec :=
  (if s.fPar.length < s.params.fecParCap then s.fPar else s.fPar.drop 1) ++ [r]

/-- The state with the record among the waiting ones. -/
def withRecord (r : ParityRec) (s : State) : State := { s with fPar := waitingWith r s }

theorem fecParity_eq {s : State} {hi : SeqNum} (hs : FecInv s) (hhi : s.fHi = some hi) (r : ParityRec) :
    fecParity r s = deliver Config.seqSpace (recover (waitingWith r s).length (withRecord r s)) := by
  obtain ⟨⟨-, -, -, -, -, hcap, -⟩, -, -, -, hfull, -⟩ := hs
  have hjoin : (if s.params.fecParCap < (s.fPar ++ [r]).length then (s.fPar ++ [r]).tail else s.fPar ++ [r]) =
      waitingWith r s := by
    rw [waitingWith, List.length_append, List.length_singleton]
    split
    · next h =>
      have hne : s.fPar ≠ [] := fun h0 => by rw [h0, List.length_nil] at h; omega
      rw [if_neg (by omega), List.tail_append_of_ne_nil hne, List.drop_one]
    · next h => rw [if_pos (by omega)]
  have hadvance : ∀ σ : State, σ.fHi = some hi → fecAdvance σ = deliver Config.seqSpace (recover σ.fPar.length σ) :=
    fun σ hσ => by rw [fecAdvance, hσ]
  rw [fecParity, hjoin]
  exact hadvance (withRecord r s) hhi

theorem mem_of_mem_waitingWith {r x : ParityRec} {s : State} (h : x ∈ waitingWith r s) : x ∈ s.fPar ∨ x = r := by
  rw [waitingWith, List.mem_append, List.mem_singleton] at h
  refine h.imp_left fun h => ?_
  split at h
  · exact h
  · exact List.mem_of_mem_drop h

theorem fecInv_withRecord {s : State} (hs : FecInv s) {r : ParityRec} (hr : r.ok = true) : FecInv (withRecord r s) := by
  obtain ⟨hvalid, hboth, hempty, hwin, hfull, hok⟩ := hs
  refine ⟨hvalid, hboth, hempty, hwin, ?_, List.all_eq_true.mpr fun x hx => ?_⟩
  · have hcap := hvalid.2.2.2.2.2.1
    show (waitingWith r s).length ≤ s.params.fecParCap
    rw [waitingWith, List.length_append, List.length_singleton]
    split
    · next h => exact h
    · rw [List.length_drop]
      omega
  · obtain hx | rfl := mem_of_mem_waitingWith hx
    · exact List.all_eq_true.mp hok x hx
    · exact hr

/-! ## One lost packet and no other parity -/

theorem stored_of_get {s : State} {o : SeqNum} {p : Bytes} (h : tableGet o.toNat s.fStore = some p) : stored s o = true := by
  rw [stored, h]
  rfl

/-- The only missing member, inside the window or newer than F_HI, is what the record asks for. -/
theorem asksFor_of_only_missing {s : State} {hi m : SeqNum} {r : ParityRec} (hs : FecInv s) (hhi : s.fHi = some hi)
    (hoff : r.offset ≠ 0#8) (hm : m ∈ recGroup r) (hmissing : stored s m = false)
    (htaken : (0 < dist hi m ∧ dist hi m < 32768) ∨ dist m hi < s.params.fecRetain)
    (hothers : ∀ o ∈ recGroup r, o ≠ m → stored s o = true) : asksFor s.params hi s.fStore r m := by
  obtain ⟨-, -, -, hwin, -⟩ := hs
  refine ⟨Bool.eq_false_iff.mpr fun hdead => ?_, List.perm_singleton.mp ?_⟩
  · obtain ⟨o, ho, hout, hbehind⟩ := dead_iff.mp hdead
    by_cases hom : o = m
    · subst hom
      have hback := dist_reverse hi o
      omega
    · exact absurd (hwin hi hhi o (hothers o ho hom)) (Nat.not_lt.mpr hout)
  · refine (List.perm_ext_iff_of_nodup ((nodup_recGroup hoff).filter _) (List.nodup_singleton m)).mpr fun o => ?_
    rw [List.mem_singleton]
    refine mem_missing_iff.trans ⟨fun ⟨ho, hget⟩ => ?_, ?_⟩
    · by_contra hom
      have hst := hothers o ho hom
      rw [stored, hget] at hst
      cases hst
    · rintro rfl
      exact ⟨hm, by simpa [stored] using hmissing⟩

/-- RECOVER of one record with one member missing puts the original into the window and uses the record up. -/
theorem recover_withRecord_alone {orig : SeqNum → Bytes} {s : State} {hi m : SeqNum} {r : ParityRec} (hs : FecInv s)
    (hhi : s.fHi = some hi) (hpar : s.fPar = []) (hasks : asksFor s.params hi s.fStore r m)
    (hpay : rebuild s.fStore r m = some (orig m)) :
    recover (waitingWith r s).length (withRecord r s) = (fecInsert m (orig m) s).1 := by
  obtain ⟨⟨-, -, -, -, -, hcap, -⟩, -⟩ := hs
  have hone : waitingWith r s = [] ++ r :: [] := by
    rw [waitingWith, hpar, List.length_nil, if_pos (Nat.lt_of_lt_of_le Nat.zero_lt_one hcap)]
  have hused : { withRecord r s with fPar := [] } = s := by rw [← hpar]; rfl
  rw [hone]
  refine (recover_of_hit (fuel := 0) (s := withRecord r s) (before := []) (after := []) hhi hone
    (fun _ hx => absurd hx List.not_mem_nil) hasks hpay).trans ?_
  rw [List.filter_nil, List.append_nil, hused]
  rfl

/-! ## The parity with others waiting -/

/-- A live record's members are near F_HI, where none is so far ahead that the comparison would turn. -/
theorem near_of_noTurn {s : State} {hi o : SeqNum} (hlive : ¬ leftWindow hi o s) (hturn : noTurn hi o s) : Near s hi o := by
  simp only [leftWindow, noTurn, Near] at *
  omega

/-- RECOVER from a settled state with one more record. -/
theorem recover_withRecord {orig : SeqNum → Bytes} {s : State} {hi q : SeqNum} {r : ParityRec} (hs : FecInv s)
    (hhi : s.fHi = some hi) (hnext : s.fNext = some q) (hsettled : fecSettled s) (hr : r.ok = true)
    (hfrom : fecFrom orig (waitingWith r s) s) (hturn : ∀ x ∈ waitingWith r s, ∀ o ∈ recGroup x, noTurn hi o s) :
    recoversFrom orig hi (waitingWith r s) s (recover (waitingWith r s).length (withRecord r s)) := by
  have hinv := fecInv_withRecord hs hr
  obtain ⟨hwaiting, -⟩ := hsettled hi q hhi hnext
  by_cases hdead : dead s.params hi r = true
  · have hidle : ∀ x ∈ waitingWith r s, ∀ m, ¬ asksFor s.params hi s.fStore x m := fun x hx m hasks => by
      obtain hx | rfl := mem_of_mem_waitingWith hx
      · have htwo := (hwaiting x hx).2
        rw [hasks.2] at htwo
        simp at htwo
      · rw [hasks.1] at hdead
        cases hdead
    obtain ⟨n, hn⟩ : ∃ n, (waitingWith r s).length = n + 1 := ⟨_, List.length_append⟩
    rw [hn, recover_of_idle (s := withRecord r s) hhi hidle]
    exact (recovering_start orig hinv hhi).ends hinv.1 (fun x hx => offset_ne_zero hinv hx) hidle
  · refine recover_recoversFrom (s := withRecord r s) hinv hhi (fun x hx o ho => ?_) hfrom
    refine near_of_noTurn (fun hleft => ?_) (hturn x hx o ho)
    have hxdead : dead s.params hi x = true := dead_iff.mpr ⟨o, ho, hleft⟩
    obtain hx | rfl := mem_of_mem_waitingWith hx
    · rw [(hwaiting x hx).1] at hxdead
      cases hxdead
    · exact hdead hxdead

/-! ## Delivery after recovery -/

/-- DELIVER from a state of the FEC invariant. -/
theorem deliver_of_fecInv {s : State} {hi q : SeqNum} (hm : s.mode ≠ .fatal) (hs : FecInv s) (hhi : s.fHi = some hi)
    (hnext : s.fNext = some q) : deliversFrom hi q s (deliver Config.seqSpace s) := by
  obtain ⟨⟨-, -, hretain, -⟩, -, -, hwin, -⟩ := hs
  exact deliver_deliversFrom hm hhi hnext fun o ho => (hwin hi hhi o ho).trans hretain

/-- The two rows are FEC.PARITY of the record with their port. -/
theorem exec_fecParity {s : State} (hm : s.mode ≠ .fatal) (u : FecUnit) :
    exec (.fecCol u) s = .next (fecParity (recordOf .col u) s) ∧
      exec (.fecRow u) s = .next (fecParity (recordOf .row u) s) := ⟨inUnit_live hm _, inUnit_live hm _⟩

section
variable {u : FecUnit} {orig : SeqNum → Bytes} {hi q : SeqNum} {s : State} (hm : s.mode ≠ .fatal) (hs : FecInv s)
  (hhi : s.fHi = some hi) (hnext : s.fNext = some q) (hoff : u.offset ≠ 0#8)
include hm hs hhi hnext hoff

/-- A parity with no other waiting and one of its packets lost. -/
theorem fecParity_rebuilds_alone {m : SeqNum} (port : Port) (hpar : s.fPar = [])
    (hshort : ∀ o ∈ fecGroup u, (orig o).length < 65536) (hpayload : u.payload = parityPayload ((fecGroup u).map orig))
    (hlenrec : u.lenrec = parityLength ((fecGroup u).map orig)) (hmem : m ∈ fecGroup u) (hmissing : stored s m = false)
    (htaken : (0 < dist hi m ∧ dist hi m < 32768) ∨ dist m hi < s.params.fecRetain)
    (hothers : ∀ o ∈ fecGroup u, o ≠ m → tableGet o.toNat s.fStore = some (orig o)) :
    ∃ s' t es, fecParity (recordOf port u) s = t ∧
      s' = { s with fHi := s'.fHi, fStore := s'.fStore } ∧ windowWith hi m (orig m) s s' ∧
      (∀ hi', s'.fHi = some hi' → deliversFrom hi' q s' t) ∧
      tableGet m.toNat t.fStore = some (orig m) ∧ t.fPar = [] ∧
      t.events = s.events ++ es ∧ ∀ p, Event.exn (.x24 p) ∉ es := by
  have hasks : asksFor s.params hi s.fStore (recordOf port u) m :=
    asksFor_of_only_missing hs hhi hoff hmem hmissing htaken fun o ho hne => stored_of_get (hothers o ho hne)
  have hpay : rebuild s.fStore (recordOf port u) m = some (orig m) :=
    rebuild_eq hoff hmem (hshort m hmem) hpayload hlenrec hothers
  obtain ⟨hframe, -, hin⟩ := fecInsert_enters (orig m) hs.1 hhi hmissing htaken
  have hinv := fecInv_fecInsert hs m (orig m)
  rw [fecParity_eq hs hhi, recover_withRecord_alone hs hhi hpar hasks hpay]
  generalize (fecInsert m (orig m) s).1 = s' at hframe hin hinv
  have hmode : s'.mode ≠ .fatal := by rw [hframe]; exact hm
  have hdel : ∀ hi', s'.fHi = some hi' → deliversFrom hi' q s' (deliver Config.seqSpace s') := fun hi' hhi' =>
    deliver_of_fecInv hmode hinv hhi' (by rw [hframe]; exact hnext)
  obtain ⟨es, hes, hclean⟩ := deliversFrom_appends (hdel _ hin.1)
  obtain ⟨hstore, hrecords⟩ := deliversFrom_sameFec (hdel _ hin.1)
  refine ⟨s', _, es, rfl, hframe, hin, hdel, ?_, ?_, ?_, hclean⟩
  · rw [hstore, hin.2 m, if_pos rfl]
  · rw [hrecords, hframe]
    exact hpar
  · rw [hes, hframe]

/-- A parity that joins others. -/
theorem fecParity_recovers (hna : u.na ≠ 0#8) {port : Port} (hport : port ≠ .main) (hsettled : fecSettled s)
    (hfrom : fecFrom orig (waitingWith (recordOf port u) s) s)
    (hturn : ∀ r ∈ waitingWith (recordOf port u) s, ∀ o ∈ recGroup r, noTurn hi o s) :
    ∃ s' t, fecParity (recordOf port u) s = t ∧ recoversFrom orig hi (waitingWith (recordOf port u) s) s s' ∧
      ∀ hi', s'.fHi = some hi' → deliversFrom hi' q s' t := by
  have hok : (recordOf port u).ok = true := parityRec_ok hport hoff hna
  have hrec := recover_withRecord hs hhi hnext hsettled hok hfrom hturn
  have hinv := fecInv_recover (waitingWith (recordOf port u) s).length (fecInv_withRecord hs hok)
  rw [fecParity_eq hs hhi]
  generalize recover _ (withRecord (recordOf port u) s) = s' at hrec hinv
  obtain ⟨_, hframe, -⟩ := id hrec
  have hmode : s'.mode ≠ .fatal := by rw [hframe]; exact hm
  exact ⟨s', _, rfl, hrec, fun hi' hhi' => deliver_of_fecInv hmode hinv hhi' (by rw [hframe]; exact hnext)⟩

end

/-- Settles O58: the parity record joins the waiting ones, RECOVER's passes keep their invariant, and DELIVER follows. -/
theorem parityRebuildsTheOneLostPacket : Obligations.ParityRebuildsTheOneLostPacket := by
  intro u orig hi q s hm hs hhi hnext hoff hna
  obtain ⟨hcol, hrow⟩ := exec_fecParity hm u
  refine ⟨fun m hpar hshort hpayload hlenrec hmem hmissing htaken hothers i hi' => ?_, fun hsettled e he => ?_⟩
  · have halone := fun port => fecParity_rebuilds_alone hm hs hhi hnext hoff port hpar hshort hpayload hlenrec hmem
      hmissing htaken hothers
    simp only [List.mem_cons, List.not_mem_nil, or_false] at hi'
    obtain rfl | rfl := hi'
    · obtain ⟨s', t, es, ht, hrest⟩ := halone .col
      exact ⟨s', t, es, hcol.trans (congrArg _ ht), hrest⟩
    · obtain ⟨s', t, es, ht, hrest⟩ := halone .row
      exact ⟨s', t, es, hrow.trans (congrArg _ ht), hrest⟩
  · intro records hfrom hturn
    simp only [List.mem_cons, List.not_mem_nil, or_false] at he
    obtain rfl | rfl := he
    · obtain ⟨s', t, ht, hrest⟩ := fecParity_recovers hm hs hhi hnext hoff hna (port := .col) (by decide) hsettled hfrom hturn
      exact ⟨s', t, hcol.trans (congrArg _ ht), hrest⟩
    · obtain ⟨s', t, ht, hrest⟩ := fecParity_recovers hm hs hhi hnext hoff hna (port := .row) (by decide) hsettled hfrom hturn
      exact ⟨s', t, hrow.trans (congrArg _ ht), hrest⟩

end Sys2Proof.Machine
end

section
/-! PROOFS. The bit reader's calls (R131 to R135): what each leaves, and that reads compose. -/

namespace Sys2Proof.Machine

/-! ## The calls that answer no field (R131, R133, R134) -/

/-- What BR.SKIP can do: move the cursor inside the buffer, or be an underrun (R133). -/
theorem execBrSkip_live {s : State} (hm : s.mode ≠ .fatal) (n : Nat) :
    execBrSkip n s = .next (if s.br.pos + n ≤ 8 * s.br.buf.length then
      { s with br := { buf := s.br.buf, pos := s.br.pos + n }, result := .ok } else { s with result := .underrun }) := by
  rw [execBrSkip, inUnit_live hm, brSkip_eq]
  by_cases h : s.br.pos + n ≤ 8 * s.br.buf.length <;> simp only [h, ↓reduceIte]

/-- Settles O50: each call is its own unit, and BR.SKIP has the two cases of `execBrSkip_live`. -/
theorem bitReaderCalls : Obligations.BitReaderCalls := by
  intro buf p n s hm
  have hskip : exec (.brSkip n) s = execBrSkip n s := rfl
  rw [hskip, execBrSkip_live hm]
  refine ⟨?init, fun hin => by rw [if_pos hin], fun hout => by rw [if_neg (Nat.not_le.mpr hout)], ?pos, ?aligned⟩
  case init => exact inUnit_live hm fun s => { s with br := brInit buf p }
  case pos => exact inUnit_live hm fun s => { s with result := .position s.br.pos }
  case aligned => exact inUnit_live hm fun s => { s with result := .aligned (brAligned s.br) }

/-! ## Reads (R132, R135) -/

/-- BR.READ of a field inside the buffer: the next read goes on where it ends. -/
theorem exec_brRead_inside {s : State} {buf : Bytes} {p : Nat} (hm : s.mode ≠ .fatal) (hbr : s.br = ⟨buf, p⟩) (n : Fin 65)
    (hin : p + n.val ≤ 8 * buf.length) :
    ∃ t, exec (.brRead n) s = .next t ∧ t.mode ≠ .fatal ∧ t.br = ⟨buf, p + n.val⟩ ∧
      t.result = .value (bitsAt buf p n.val) := by
  have hread : exec (.brRead n) s = execBrRead n s := rfl
  rw [hread, execBrRead_live hm, hbr, if_pos hin]
  exact ⟨_, rfl, hm, rfl, rfl⟩

/-- The first bits from a byte's start are the first digits of that byte (R14). -/
theorem bitsAt_of_aligned (buf : Bytes) {p n : Nat} (hp : p % 8 = 0) (hn : n ≤ 8) :
    bitsAt buf p n = (byteAt buf (p / 8)).toNat / 2 ^ (8 - n) := by
  induction n with
  | zero => exact (Nat.div_eq_of_lt (byteAt buf (p / 8)).isLt).symm
  | succ n ih =>
    have hbyte : (p + n) / 8 = p / 8 := by omega
    have hbit : (p + n) % 8 = n := by omega
    rw [bitsAt, ih (by omega), bitAt, hbyte, hbit, show 8 - n = 7 - n + 1 by omega, show 8 - (n + 1) = 7 - n by omega,
      Nat.pow_succ, ← Nat.div_div_eq_div_mul, Nat.div_add_mod]

/-- Settles O49: a field is its first bits followed by its last (`bitsAt_add`), and the eight from a byte's start are that
byte (`bitsAt_of_aligned`). -/
theorem splitReadsComposeToOneRead : Obligations.SplitReadsComposeToOneRead := by
  intro buf p s hm hbr
  refine ⟨fun a b h hin => ?_, fun hp hin => ?_⟩
  · obtain ⟨t₁, hrun₁, hm₁, hbr₁, hx⟩ := exec_brRead_inside hm hbr ⟨a, by omega⟩ (Nat.le_of_add_right_le hin)
    obtain ⟨t₂, hrun₂, -, hbr₂, hy⟩ := exec_brRead_inside hm₁ hbr₁ ⟨b, by omega⟩ hin
    obtain ⟨t, hrun, -, hbr', hv⟩ := exec_brRead_inside hm hbr ⟨a + b, h⟩ (by rwa [← Nat.add_assoc])
    rw [bitsAt_add] at hv
    rw [← Nat.add_assoc] at hbr'
    exact ⟨t₁, t₂, t, _, _, hrun₁, hx, hrun₂, hy, hrun, hv, hbr₂, hbr'⟩
  · obtain ⟨t, hrun, -, -, hv⟩ := exec_brRead_inside hm hbr ⟨8, by omega⟩ hin
    have hlt : p / 8 < buf.length := by omega
    have hbyte : byteAt buf (p / 8) = buf[p / 8] := List.getD_eq_getElem _ _ hlt
    rw [bitsAt_of_aligned buf hp le_rfl, hbyte, Nat.sub_self, Nat.pow_zero, Nat.div_one] at hv
    exact ⟨t, _, List.getElem?_eq_getElem hlt, hrun, hv⟩

end Sys2Proof.Machine
end

section
/-! PROOFS. Units that nobody reads, Empty and PcrWatch filters (R162 to R168). -/

namespace Sys2Proof.Machine

/-! ## Units that nobody reads (R164, R165, R195) -/

/-- A unit-level row whose operation does nothing here, in FATAL or outside it. -/
theorem inUnit_unchanged {act : State → State} {s : State} (h : act s = s) : inUnit act s = .next s := by
  rw [inUnit, h, ite_self]

/-- A FILTER row whose operation does nothing here, whatever the form of the slot. -/
theorem runRoute_unchanged {act : State → State} {s : State} (h : act s = s) (f : Form) (u : RouteUnit) :
    runRoute f u act s = s := by
  rw [runRoute, h, ite_self]

theorem routeSection_of_no_payload {u : RouteUnit} (h : u.payload = none) (s : State) : routeSection u s = s := by
  rw [routeSection, h]

/-- Settles O28: each row's operation is the identity on such a unit. -/
theorem unitsNobodyReadsChangeNothing : Obligations.UnitsNobodyReadsChangeNothing := by
  intro u pn e k rest s
  have hroute : ∀ f {act}, act s = s → inUnit (runRoute f u act) s = .next s := fun f _ h =>
    inUnit_unchanged (runRoute_unchanged h f u)
  have hstuffing : exec (.secStuffing (some u.pid) rest) s = inUnit (fun s => s) s := rfl
  refine ⟨hroute .null rfl, hstuffing.trans (inUnit_unchanged rfl), fun hnone => ?_⟩
  have hsection := routeSection_of_no_payload hnone s
  exact ⟨hroute .pat hsection, hroute (.pmt pn) hsection, hroute (.scte35 e k) hsection⟩

/-! ## Empty slots and PcrWatch filters (R163, R167, R168) -/

/-- A FILTER row on a slot of its form. -/
theorem inUnit_runRoute {s : State} (hm : s.mode ≠ .fatal) {f : Form} {u : RouteUnit} (hf : formAt s u.pid = f)
    (act : State → State) : inUnit (runRoute f u act) s = .next (act s) := by
  rw [inUnit_live hm, runRoute, if_pos hf]

theorem construct_pid_zero (s : State) : construct 0#13 s = setSlot 0#13 (.pat .fresh) s := rfl

theorem construct_pid_other {p : Pid} (h : p ≠ 0#13) (s : State) : construct p s = setSlot p .null s := by
  rw [construct, if_neg h, freshSlot]

/-- Settles O27: the row constructs the slot and handles the packet as the row of the new form; a PcrWatch filter writes
one registry entry. -/
theorem emptyAndPcrWatchFilters : Obligations.EmptyAndPcrWatchFilters := by
  intro u key s hm
  have hempty : formAt s u.pid = .empty → exec (.routeEmpty u) s = .next (routeBuilt u (construct u.pid s)) := fun hf =>
    inUnit_runRoute hm hf _
  have hwatch : formAt s u.pid = .pcrWatch key → exec (.routePcrwatch key u) s = .next (routePcr key u s) := fun hf =>
    inUnit_runRoute hm hf _
  refine ⟨fun hf hzero => ⟨_, hempty hf, ?pat⟩, fun hf hother => ⟨_, hempty hf, ?null⟩,
    fun hf p hpcr => ⟨_, hwatch hf, ?seen⟩, fun hf hpcr => ?unseen⟩
  case pat =>
    have hform : formAt (setSlot u.pid (.pat .fresh) s) u.pid = .pat := by rw [formAt, slotAt_setSlot_same, Slot.form]
    have hbuilt : routeBuilt u (construct u.pid s) = routeSection u (setSlot u.pid (.pat .fresh) s) := by
      rw [hzero, construct_pid_zero, ← hzero, routeBuilt, hform]
    rw [hbuilt]
    exact inUnit_runRoute (s := setSlot u.pid (.pat .fresh) s) hm hform _
  case null =>
    have hbuilt : routeBuilt u (construct u.pid s) = setSlot u.pid .null s := by
      rw [construct_pid_other hother, routeBuilt, formAt, slotAt_setSlot_same, Slot.form]
    rw [hbuilt]
    exact ⟨slotAt_setSlot_same _ _ s, fun p hp => slotAt_setSlot_other hp _ s, rfl⟩
  case seen =>
    rw [routePcr, hpcr]
    exact ⟨pcrAt_setPcr_same _ _ s, fun k hk => pcrAt_setPcr_other hk _ s, rfl⟩
  case unseen => rw [hwatch hf, routePcr, hpcr]

end Sys2Proof.Machine
end

section
/-! PROOFS. What is done with a packet depends neither on what waits in `PKTBUF` nor on the requests that are pending: PACKET
commutes with every change of the two. -/

namespace Sys2Proof.Machine

/-! ## Another `PKTBUF` and another inbox -/

/-- The state with other bytes waiting in `PKTBUF` and other requests pending. -/
def withInput (b : Bytes) (l : List Request) (s : State) : State := { s with pktbuf := b, inbox := l }

/-- The operation reads neither and writes neither. -/
def IgnoresInput (f : State → State) : Prop := ∀ b l s, f (withInput b l s) = withInput b l (f s)

@[simp] theorem formAt_withInput (b : Bytes) (l : List Request) (s : State) (p : Pid) :
    formAt (withInput b l s) p = formAt s p := rfl
@[simp] theorem reasmAt_withInput (b : Bytes) (l : List Request) (s : State) (p : Pid) :
    reasmAt (withInput b l s) p = reasmAt s p := rfl
@[simp] theorem accAt_withInput (b : Bytes) (l : List Request) (s : State) (p : Pid) :
    accAt (withInput b l s) p = accAt s p := rfl

theorem ignoresInput_id : IgnoresInput id := fun _ _ _ => rfl

theorem IgnoresInput.andThen {f g : State → State} (hf : IgnoresInput f) (hg : IgnoresInput g) :
    IgnoresInput fun s => g (f s) := fun b l s => (congrArg g (hf b l s)).trans (hg b l (f s))

/-- A choice that the input does not decide. -/
theorem ignoresInput_ite {f g : State → State} {c : State → Prop} [DecidablePred c]
    (hc : ∀ b l s, c (withInput b l s) ↔ c s) (hf : IgnoresInput f) (hg : IgnoresInput g) :
    IgnoresInput fun s => if c s then f s else g s := fun b l s => by
  simp only [hc]
  split
  · exact hf b l s
  · exact hg b l s

theorem ignoresInput_foldl {β : Type} {step : State → β → State} (h : ∀ x, IgnoresInput fun s => step s x) (xs : List β) :
    IgnoresInput fun s => xs.foldl step s := by
  induction xs with
  | nil => exact ignoresInput_id
  | cons x rest ih => exact (h x).andThen ih

theorem ignoresInput_raise {x : Exn} (h : x.fatalCode = none) : IgnoresInput (raise x) := fun b l s => by
  rw [raise_recoverable h, raise_recoverable h]
  rfl

/-! ## Tables and sections -/

theorem ignoresInput_setAcc (p : Pid) (a : Option Bytes) : IgnoresInput (setAcc p a) := fun b l s => by
  unfold setAcc
  rw [reasmAt_withInput]
  split <;> rfl

theorem ignoresInput_classify (p : Pid) (f : Form) : IgnoresInput (classify p f) :=
  ignoresInput_ite (c := fun s => formAt s p = f ∧ f ≠ .empty) (fun _ _ _ => Iff.rfl) ignoresInput_id fun _ _ _ => rfl

theorem ignoresInput_classifyAll (cs : List (Pid × Form)) : IgnoresInput (classifyAll cs) := by
  unfold classifyAll
  exact ignoresInput_foldl (fun c => ignoresInput_classify c.1 c.2) cs

theorem ignoresInput_withEntry (p : Pid) : IgnoresInput (withEntry p) :=
  ignoresInput_ite (c := fun s => pcrAt s p = .absent) (fun _ _ _ => Iff.rfl) (fun _ _ _ => rfl) ignoresInput_id

theorem ignoresInput_patSection (p : Pid) (sec : Bytes) : IgnoresInput (patSection p sec) := fun b l s => by
  unfold patSection
  split
  · exact ignoresInput_raise rfl b l s
  · rw [applyPat_eq, applyPat_eq]
    exact ignoresInput_classifyAll _ b l s

theorem ignoresInput_pmtSection (p : Pid) (pn : BitVec 16) (sec : Bytes) : IgnoresInput (pmtSection p pn sec) :=
  fun b l s => by
  unfold pmtSection
  split
  · exact ignoresInput_raise rfl b l s
  · exact ignoresInput_raise rfl b l s
  · rw [applyPmt_eq, applyPmt_eq]
    exact (ignoresInput_withEntry p).andThen (ignoresInput_classifyAll _) b l s

theorem ignoresInput_complete (p : Pid) (sec : Bytes) : IgnoresInput (complete p sec) := fun b l s => by
  unfold complete
  rw [formAt_withInput]
  split
  · rfl
  split
  · exact ignoresInput_raise rfl b l s
  split
  · exact ignoresInput_raise rfl b l s
  cases formAt s p with
  | pat => exact ignoresInput_patSection p sec b l s
  | pmt pn => exact ignoresInput_pmtSection p pn sec b l s
  | scte35 | empty | null | pcrWatch => rfl

/-! ## The reassembler -/

theorem feed_withInput (n : Nat) (p : Pid) (f : Form) (data : Bytes) (fresh : Bool) (b : Bytes) (l : List Request) (s : State) :
    feed n p f data fresh (withInput b l s) = (withInput b l (feed n p f data fresh s).1, (feed n p f data fresh s).2) := by
  induction n generalizing data s with
  | zero => rfl
  | succ n ih =>
    unfold feed
    rw [accAt_withInput]
    split
    · rfl
    split
    · rfl
    split
    · rw [ignoresInput_setAcc]
    · rw [ignoresInput_raise rfl, ignoresInput_setAcc]
    · simp only [ignoresInput_setAcc p none b l, ignoresInput_complete p _ b l, formAt_withInput]
      split
      · rfl
      · exact ih _ _

theorem ignoresInput_feed (n : Nat) (p : Pid) (f : Form) (data : Bytes) (fresh : Bool) :
    IgnoresInput fun s => (feed n p f data fresh s).1 := fun b l s => congrArg Prod.fst (feed_withInput n p f data fresh b l s)

theorem ignoresInput_continuity (p : Pid) (cc : Cc) (r : Reasm) : IgnoresInput (continuity p cc r) := fun b l s => by
  unfold continuity
  split
  · exact ignoresInput_raise rfl b l (setReasm p _ s)
  · rfl

theorem ignoresInput_consumeStart (p : Pid) (f : Form) (ptr : Byte) (d : Bytes) : IgnoresInput (consumeStart p f ptr d) :=
  fun b l s => by
  have hdrop : ∀ {x : Exn}, x.fatalCode = none → IgnoresInput fun s => setAcc p none (raise x s) := fun hx =>
    (ignoresInput_raise hx).andThen (ignoresInput_setAcc p none)
  have hrest : IgnoresInput fun s => (feed (d.drop ptr.toNat).length p f (d.drop ptr.toNat) true s).1 :=
    ignoresInput_feed _ p f _ true
  have hstuck : IgnoresInput fun s => if accAt s p = none then s else setAcc p none (raise (.x23 p) s) :=
    ignoresInput_ite (c := fun s => accAt s p = none) (fun _ _ _ => Iff.rfl) ignoresInput_id (hdrop rfl)
  unfold consumeStart
  split
  · exact hdrop rfl b l s
  simp only [feed_withInput _ p f (d.take ptr.toNat), accAt_withInput]
  split
  · exact hrest b l s
  split
  · rfl
  · exact (hstuck.andThen hrest) b l _

theorem ignoresInput_consume (p : Pid) (pusi : BitVec 1) (cc : Cc) (d : Bytes) : IgnoresInput (consume p pusi cc d) :=
  fun b l s => by
  unfold consume
  rw [reasmAt_withInput]
  split
  · rfl
  simp only [ignoresInput_continuity p cc _ b l, formAt_withInput, accAt_withInput]
  split
  · split
    · rfl
    · exact ignoresInput_consumeStart p _ _ _ b l _
  · split
    · rfl
    · exact ignoresInput_feed _ p _ _ _ b l _

/-! ## Packets -/

theorem ignoresInput_routeSection (u : RouteUnit) : IgnoresInput (routeSection u) := fun b l s => by
  unfold routeSection
  split
  · rfl
  · exact ignoresInput_consume _ _ _ _ b l s

theorem ignoresInput_routeBuilt (u : RouteUnit) : IgnoresInput (routeBuilt u) := fun b l s => by
  have hsection := ignoresInput_routeSection u b l s
  unfold routeBuilt
  rw [formAt_withInput]
  cases formAt s u.pid with
  | empty | null => rfl
  | pcrWatch key =>
    simp only [routePcr]
    cases u.pcr <;> rfl
  | pat | pmt | scte35 => exact hsection

theorem ignoresInput_route (u : RouteUnit) : IgnoresInput (route u) :=
  (ignoresInput_ite (c := fun s => formAt s u.pid = .empty) (f := construct u.pid) (fun _ _ _ => Iff.rfl) (fun _ _ _ => rfl)
    ignoresInput_id).andThen (ignoresInput_routeBuilt u)

/-- PACKET reads and writes neither `PKTBUF` nor the inbox. -/
theorem ignoresInput_packet (p : Bytes) : IgnoresInput (packet p) := fun b l s => by
  unfold packet
  simp only
  split
  · exact ignoresInput_raise rfl b l s
  split
  · exact ignoresInput_route _ b l s
  split
  · unfold adaptPacket
    split
    · exact ignoresInput_raise rfl b l s
    · exact ignoresInput_route _ b l s
  · unfold adaptPayloadPacket
    split
    · exact ignoresInput_raise rfl b l s
    · exact ignoresInput_route _ b l s

/-! ## More bytes behind, and another inbox -/

/-- The state with more bytes behind those that wait. -/
def withMore (b : Bytes) (s : State) : State := { s with pktbuf := s.pktbuf ++ b }

/-- The state with other requests pending. -/
def withInbox (l : List Request) (s : State) : State := { s with inbox := l }

theorem packet_withMore (p b : Bytes) (s : State) : packet p (withMore b s) = withMore b (packet p s) := by
  have hq := quiet_packet p s
  show packet p (withInput (s.pktbuf ++ b) s.inbox s) = withInput ((packet p s).pktbuf ++ b) (packet p s).inbox (packet p s)
  rw [ignoresInput_packet, hq.pktbuf, hq.inbox]

theorem packet_withInbox (p : Bytes) (l : List Request) (s : State) :
    packet p (withInbox l s) = withInbox l (packet p s) := by
  show packet p (withInput s.pktbuf l s) = withInput (packet p s).pktbuf l (packet p s)
  rw [ignoresInput_packet, (quiet_packet p s).pktbuf]

end Sys2Proof.Machine
end

section
/-! PROOFS. Framing (R151 to R157): what the loop makes of `PKTBUF` as a relation, so that a buffer pushed in chunks is framed as
the whole; and which offset a hunt takes. -/

namespace Sys2Proof.Machine

/-! ## HUNT (R154) -/

/-- A confirmed candidate lies inside the bytes. -/
theorem lt_of_found {left k n : Nat} {b : Bytes} (h : huntFrom left k b = .found n) : n < k + b.length := by
  induction left generalizing k b with
  | zero => cases h
  | succ left ih =>
    cases b with
    | nil => cases h
    | cons c rest =>
      have hrest : huntFrom left (k + 1) rest = .found n → n < k + (c :: rest).length := fun h => by
        have := ih h
        rw [List.length_cons]
        omega
      unfold huntFrom at h
      split at h
      · exact hrest h
      split at h
      · cases h
      split at h
      · cases h
        rw [List.length_cons]
        omega
      · exact hrest h

/-- A decided hunt has seen all it looks at: more bytes behind change nothing. -/
theorem huntFrom_append {left k : Nat} {b : Bytes} (h : huntFrom left k b ≠ .wait) (more : Bytes) :
    huntFrom left k (b ++ more) = huntFrom left k b := by
  induction left generalizing k b with
  | zero => rfl
  | succ left ih =>
    cases b with
    | nil => exact absurd rfl h
    | cons c rest =>
      simp only [List.cons_append, huntFrom] at h ⊢
      split
      · next hc => exact ih (by simpa only [if_pos hc] using h)
      next hc =>
      rw [if_neg hc] at h
      cases hend : (c :: rest)[Config.tsPkt]? with
      | none => simp [hend] at h
      | some e =>
        have hlt : Config.tsPkt < (c :: rest).length := (List.getElem?_eq_some_iff.mp hend).1
        have hend' : (c :: (rest ++ more))[Config.tsPkt]? = some e := by
          rw [← List.cons_append, List.getElem?_append_left hlt, hend]
        simp only [hend, hend'] at h ⊢
        split
        · rfl
        · next he => exact ih (by simpa only [if_neg he] using h)

/-- The offset `k` is refuted by bytes present. -/
def refutedAt (b : Bytes) (k : Nat) : Prop :=
  (∃ c, b[k]? = some c ∧ c ≠ 0x47#8) ∨ (b[k]? = some 0x47#8 ∧ ∃ c, b[k + 188]? = some c ∧ c ≠ 0x47#8)

/-- The offset `k` has two sync bytes one packet apart. -/
def confirmedAt (b : Bytes) (k : Nat) : Prop := b[k]? = some 0x47#8 ∧ b[k + 188]? = some 0x47#8

theorem refutedAt_drop {b : Bytes} {n j : Nat} : refutedAt (b.drop n) j ↔ refutedAt b (n + j) := by
  simp only [refutedAt, List.getElem?_drop, Nat.add_assoc]

theorem confirmedAt_drop {b : Bytes} {n j : Nat} : confirmedAt (b.drop n) j ↔ confirmedAt b (n + j) := by
  simp only [confirmedAt, List.getElem?_drop, Nat.add_assoc]

/-- A refuted first candidate is passed over. -/
theorem huntFrom_of_refuted {b : Bytes} (h : refutedAt b 0) (left k : Nat) :
    huntFrom (left + 1) k b = huntFrom left (k + 1) (b.drop 1) := by
  cases b with
  | nil => simp [refutedAt] at h
  | cons c rest =>
    simp only [refutedAt, List.getElem?_cons_zero, Option.some.injEq, Nat.zero_add] at h
    obtain ⟨_, rfl, hc⟩ | ⟨rfl, e, he, hne⟩ := h
    · exact if_pos hc
    · simp only [huntFrom, Config.syncByte, Config.tsPkt, he, hne, ne_eq, not_true_eq_false, if_false]
      rfl

/-- A confirmed first candidate is the answer. -/
theorem huntFrom_of_confirmed {b : Bytes} (h : confirmedAt b 0) (left k : Nat) : huntFrom (left + 1) k b = .found k := by
  obtain ⟨hsync, hnext⟩ := h
  cases b with
  | nil => simp at hsync
  | cons c rest =>
    obtain rfl : c = 0x47#8 := Option.some.inj hsync
    rw [Nat.zero_add] at hnext
    simp only [huntFrom, Config.syncByte, Config.tsPkt, hnext, ne_eq, not_true_eq_false, if_false, if_true]

/-- At a first candidate that is neither, bytes are missing. -/
theorem huntFrom_of_undecided {b : Bytes} (hr : ¬ refutedAt b 0) (hc : ¬ confirmedAt b 0) (left k : Nat) :
    huntFrom (left + 1) k b = .wait := by
  cases b with
  | nil => rfl
  | cons c rest =>
    have hsync : c = 0x47#8 := by_contra fun hne => hr (.inl ⟨c, rfl, hne⟩)
    subst hsync
    have hnext : (0x47#8 :: rest)[188]? = none := by
      cases he : (0x47#8 :: rest)[188]? with
      | none => rfl
      | some e =>
        by_cases hsame : e = 0x47#8
        · exact absurd ⟨rfl, by rw [Nat.zero_add, he, hsame]⟩ hc
        · exact absurd (.inr ⟨rfl, e, by rw [Nat.zero_add, he], hsame⟩) hr
    simp only [huntFrom, Config.syncByte, Config.tsPkt, hnext, ne_eq, not_true_eq_false, if_false]

/-- The hunt comes to the first candidate that is not refuted. -/
theorem huntFrom_of_all_refuted {b : Bytes} {n : Nat} (h : ∀ j < n, refutedAt b j) (left k : Nat) :
    huntFrom (n + left) k b = huntFrom left (k + n) (b.drop n) := by
  induction n generalizing left with
  | zero => rw [Nat.zero_add, List.drop_zero, Nat.add_zero]
  | succ n ih =>
    have hlast : refutedAt (b.drop n) 0 := refutedAt_drop.mpr (h n (Nat.lt_succ_self n))
    rw [Nat.add_right_comm, Nat.add_assoc, ih (fun j hj => h j (Nat.lt_succ_of_lt hj)), huntFrom_of_refuted hlast,
      List.drop_drop, Nat.add_assoc]

/-- HUNT comes to the offset `k` where the lesser ones are refuted. -/
theorem hunt_from_offset {b : Bytes} {w k : Nat} (h1 : 1 ≤ k) (hk : k ≤ w) (h : ∀ j, 1 ≤ j → j < k → refutedAt b j) :
    hunt w b = huntFrom (w - k + 1) k (b.drop k) := by
  have hbefore : ∀ j < k - 1, refutedAt (b.drop 1) j := fun j hj => refutedAt_drop.mpr (h (1 + j) (by omega) (by omega))
  have hskip := huntFrom_of_all_refuted hbefore (w - k + 1) 1
  rwa [List.drop_drop, show k - 1 + (w - k + 1) = w by omega, show 1 + (k - 1) = k by omega] at hskip

theorem hunt_found {b : Bytes} {w k : Nat} (h1 : 1 ≤ k) (hk : k ≤ w) (h : ∀ j, 1 ≤ j → j < k → refutedAt b j)
    (hc : confirmedAt b k) : hunt w b = .found k := by
  rw [hunt_from_offset h1 hk h, huntFrom_of_confirmed (confirmedAt_drop.mpr hc)]

theorem hunt_wait {b : Bytes} {w k : Nat} (h1 : 1 ≤ k) (hk : k ≤ w) (h : ∀ j, 1 ≤ j → j < k → refutedAt b j)
    (hc : ¬ confirmedAt b k) (hr : ¬ refutedAt b k) : hunt w b = .wait := by
  rw [hunt_from_offset h1 hk h, huntFrom_of_undecided (mt refutedAt_drop.mp hr) (mt confirmedAt_drop.mp hc)]

theorem hunt_lost {b : Bytes} {w : Nat} (h : ∀ k, 1 ≤ k → k ≤ w → refutedAt b k) : hunt w b = .lost := by
  have hall : ∀ j < w, refutedAt (b.drop 1) j := fun j hj => refutedAt_drop.mpr (h (1 + j) (by omega) (by omega))
  exact huntFrom_of_all_refuted hall 0 1

/-! ## The framing loop (R151) -/

/-- The head of `PKTBUF` is no sync byte. -/
def OffSync (s : State) : Prop := ∃ b rest, s.pktbuf = b :: rest ∧ b ≠ Config.syncByte

/-- The state after the packet at the head of `PKTBUF` (R152). -/
def afterPacket (s : State) : State :=
  packet (s.pktbuf.take Config.tsPkt) { s with pktbuf := s.pktbuf.drop Config.tsPkt }

/-- The state after a resynchronisation at offset `k` (R155). -/
def afterFound (k : Nat) (s : State) : State := raise (.x01 k) { s with pktbuf := s.pktbuf.drop k }

@[simp] theorem afterPacket_pktbuf (s : State) : (afterPacket s).pktbuf = s.pktbuf.drop Config.tsPkt :=
  (quiet_packet _ _).pktbuf
@[simp] theorem afterPacket_mode (s : State) : (afterPacket s).mode = s.mode := (quiet_packet _ _).mode
@[simp] theorem afterFound_pktbuf (k : Nat) (s : State) : (afterFound k s).pktbuf = s.pktbuf.drop k := rfl

/-- What framing comes to outside FATAL, pass by pass: it stops on less than a packet or an undecided hunt, handles a packet,
goes on at a confirmed offset, or loses synchronisation. -/
inductive Framed : State → State → Prop
  | empty {s : State} : s.pktbuf = [] → Framed s s
  | short {s : State} {rest : Bytes} : s.pktbuf = Config.syncByte :: rest → s.pktbuf.length < Config.tsPkt → Framed s s
  | packet {s t : State} {rest : Bytes} : s.pktbuf = Config.syncByte :: rest → Config.tsPkt ≤ s.pktbuf.length →
      Framed (afterPacket s) t → Framed s t
  | wait {s : State} : OffSync s → hunt s.params.resyncWindow s.pktbuf = .wait → Framed s s
  | found {s t : State} {k : Nat} : OffSync s → hunt s.params.resyncWindow s.pktbuf = .found k →
      Framed (afterFound k s) t → Framed s t
  | lost {s : State} : OffSync s → hunt s.params.resyncWindow s.pktbuf = .lost → Framed s (raise .x02 s)

theorem length_drop_tsPkt_lt {b : Bytes} (h : Config.tsPkt ≤ b.length) : (b.drop Config.tsPkt).length < b.length := by
  have hpos : 0 < Config.tsPkt := by decide
  rw [List.length_drop]
  omega

/-- A hunt drops at least a byte. -/
theorem length_drop_found_lt {w k : Nat} {b : Bytes} (hne : b ≠ []) (h : hunt w b = .found k) :
    (b.drop k).length < b.length := by
  have hpos : 1 ≤ k := le_of_found h
  have hlen := List.length_pos_iff.mpr hne
  rw [List.length_drop]
  omega

theorem OffSync.ne_nil {s : State} (h : OffSync s) : s.pktbuf ≠ [] := by
  obtain ⟨b, rest, hbuf, -⟩ := h
  simp [hbuf]

/-- The loop on a head that is no sync byte. -/
theorem frameLoop_offSync {s : State} (hm : s.mode ≠ .fatal) (h : OffSync s) (n : Nat) :
    frameLoop (n + 1) s = if (resync s).2 then frameLoop n (resync s).1 else (resync s).1 := by
  obtain ⟨b, rest, hbuf, hb⟩ := h
  rw [frameLoop, if_neg hm]
  simp only [hbuf, if_neg hb]
  obtain ⟨s', more⟩ := resync s
  cases more <;> rfl

/-- The loop on a sync byte. -/
theorem frameLoop_onSync {s : State} (hm : s.mode ≠ .fatal) {rest : Bytes} (h : s.pktbuf = Config.syncByte :: rest) (n : Nat) :
    frameLoop (n + 1) s = if s.pktbuf.length < Config.tsPkt then s else
      frameLoop n (afterPacket s) := by
  rw [frameLoop, if_neg hm]
  simp only [h, if_true, afterPacket]

theorem frameLoop_empty {s : State} (h : s.pktbuf = []) (n : Nat) : frameLoop n s = s := by
  cases n with
  | zero => rfl
  | succ n => simp [frameLoop, h]

/-- The loop answers what framing comes to: its fuel, a unit per byte, does not run out (R455). -/
theorem Framed.frameLoop {s t : State} (h : Framed s t) (hm : s.mode ≠ .fatal) {n : Nat} (hn : s.pktbuf.length ≤ n) :
    frameLoop n s = t := by
  have hfuel : ∀ {s : State}, s.pktbuf ≠ [] → ∀ {n}, s.pktbuf.length ≤ n → ∃ m, n = m + 1 := fun hne _ hn =>
    Nat.exists_eq_succ_of_ne_zero fun hzero => hne (List.length_eq_zero_iff.mp (by omega))
  induction h generalizing n with
  | empty hbuf => exact frameLoop_empty hbuf n
  | short hbuf hshort =>
    obtain ⟨m, rfl⟩ := hfuel (by simp [hbuf]) hn
    rw [frameLoop_onSync hm hbuf, if_pos hshort]
  | packet hbuf hlen _ ih =>
    obtain ⟨m, rfl⟩ := hfuel (by simp [hbuf]) hn
    have hless := length_drop_tsPkt_lt hlen
    rw [frameLoop_onSync hm hbuf, if_neg (Nat.not_lt.mpr hlen)]
    exact ih (by rwa [afterPacket_mode]) (by rw [afterPacket_pktbuf]; omega)
  | wait hoff hhunt =>
    obtain ⟨m, rfl⟩ := hfuel hoff.ne_nil hn
    rw [frameLoop_offSync hm hoff, resync, hhunt]
    rfl
  | found hoff hhunt _ ih =>
    obtain ⟨m, rfl⟩ := hfuel hoff.ne_nil hn
    have hless := length_drop_found_lt hoff.ne_nil hhunt
    rw [frameLoop_offSync hm hoff, resync, hhunt]
    exact ih hm (by rw [afterFound_pktbuf]; omega)
  | lost hoff hhunt =>
    obtain ⟨m, rfl⟩ := hfuel hoff.ne_nil hn
    rw [frameLoop_offSync hm hoff, resync, hhunt]
    rfl

/-- Every buffer is framed in some way. -/
theorem exists_framed (s : State) : ∃ t, Framed s t := by
  induction hn : s.pktbuf.length using Nat.strong_induction_on generalizing s with
  | _ n ih =>
    subst hn
    cases hbuf : s.pktbuf with
    | nil => exact ⟨s, .empty hbuf⟩
    | cons b rest =>
      by_cases hb : b = Config.syncByte
      · subst hb
        by_cases hlen : s.pktbuf.length < Config.tsPkt
        · exact ⟨s, .short hbuf hlen⟩
        · have hlen := Nat.not_lt.mp hlen
          obtain ⟨t, ht⟩ := ih _ (length_drop_tsPkt_lt hlen) _ (congrArg List.length (afterPacket_pktbuf s))
          exact ⟨t, .packet hbuf hlen ht⟩
      · have hoff : OffSync s := ⟨b, rest, hbuf, hb⟩
        cases hhunt : hunt s.params.resyncWindow s.pktbuf with
        | wait => exact ⟨s, .wait hoff hhunt⟩
        | lost => exact ⟨_, .lost hoff hhunt⟩
        | found k =>
          obtain ⟨t, ht⟩ := ih _ (length_drop_found_lt hoff.ne_nil hhunt) (afterFound k s) rfl
          exact ⟨t, .found hoff hhunt ht⟩

theorem demuxPush_of_framed {s t : State} {bytes : Bytes} (hm : s.mode ≠ .fatal)
    (h : Framed (withMore bytes s) t) : demuxPush bytes s = t := h.frameLoop hm le_rfl

/-- A push onto an empty `PKTBUF` is framed as its bytes. -/
theorem demuxPush_of_framed_empty {s t : State} {bytes : Bytes} (hm : s.mode ≠ .fatal) (hbuf : s.pktbuf = [])
    (h : Framed { s with pktbuf := bytes } t) : demuxPush bytes s = t :=
  demuxPush_of_framed hm (by rwa [withMore, hbuf])

end Sys2Proof.Machine
end

section
/-! PROOFS. What a PUSH comes to: a packet alone is its row, the chunks are their concatenation, and a hunt takes the least
confirmed offset (R151 to R157). -/

namespace Sys2Proof.Machine

/-! ## PUSH in FILE (R363) -/

theorem exec_push {s : State} (hfile : s.mode = .file) (b : Bytes) : exec (.push b) s = .next (demuxPush b s) := by
  calc exec (.push b) s = command 0x02#8 (s.mode == .file) (demuxPush b) s := rfl
    _ = .next (demuxPush b s) := by rw [hfile]; exact command_legal (by simp [hfile]) _ _

theorem exec_push_of_framed {s t : State} {b : Bytes} (hfile : s.mode = .file) (hbuf : s.pktbuf = [])
    (h : Framed { s with pktbuf := b } t) : exec (.push b) s = .next t := by
  rw [exec_push hfile, demuxPush_of_framed_empty (by simp [hfile]) hbuf h]

/-! ## One packet (R159) -/

theorem length_packetBytes (h : TsHeader) (afc : BitVec 2) (body : Bytes) :
    (packetBytes h afc body).length = 4 + body.length := by
  simp [packetBytes, be24]
  omega

/-- PACKET reads the header back and branches on adaptation_field_control. -/
theorem packet_packetBytes (h : TsHeader) (afc : BitVec 2) (body : Bytes) (s : State) :
    packet (packetBytes h afc body) s =
      if afc = 0#2 then reservedPacket h s else if afc = 1#2 then payloadPacket h body s
      else if afc = 2#2 then adaptPacket h body s else adaptPayloadPacket h body s := by
  have hword : byteAt (packetBytes h afc body) 1 ++ byteAt (packetBytes h afc body) 2 ++ byteAt (packetBytes h afc body) 3 =
      tsWord h afc := be24_word _
  have hbody : (packetBytes h afc body).drop 4 = body := rfl
  simp only [packet, hword, hbody, tsAfc_tsWord, tsFields_tsWord]

/-- A packet alone is handled, and nothing is left to frame. -/
theorem framed_packetBytes {s : State} (hbuf : s.pktbuf = []) (h : TsHeader) (afc : BitVec 2) {body : Bytes}
    (hlen : body.length = 184) :
    Framed { s with pktbuf := packetBytes h afc body } (packet (packetBytes h afc body) s) := by
  have hpacket : (packetBytes h afc body).length = Config.tsPkt := by rw [length_packetBytes, hlen]; rfl
  have hrest : { s with pktbuf := [] } = s := by rw [← hbuf]
  have hafter : afterPacket { s with pktbuf := packetBytes h afc body } = packet (packetBytes h afc body) s := by
    simp only [afterPacket, ← hpacket, List.take_length, List.drop_length]
    rw [hrest]
  refine .packet rfl (Nat.le_of_eq hpacket.symm) ?_
  rw [hafter]
  exact .empty ((quiet_packet _ s).pktbuf.trans hbuf)

/-- Settles O21: the push is PACKET, which is the packet's row (`packet_packetBytes`). -/
theorem pushOfOnePacketIsItsRow : Obligations.PushOfOnePacketIsItsRow := by
  intro h body s hfile hbuf hlen
  have hm : s.mode ≠ .fatal := by simp [hfile]
  have hpush : ∀ afc, exec (.push (packetBytes h afc body)) s = .next (packet (packetBytes h afc body) s) := fun afc =>
    exec_push_of_framed hfile hbuf (framed_packetBytes hbuf h afc hlen)
  refine ⟨⟨_, hpush 1#2, ?_⟩, ⟨_, hpush 2#2, ?_⟩, ⟨_, hpush 3#2, ?_⟩, ⟨_, hpush 0#2, ?_⟩⟩
  all_goals rw [packet_packetBytes]
  · exact inUnit_live hm (payloadPacket h body)
  · exact inUnit_live hm (adaptPacket h body)
  · exact inUnit_live hm (adaptPayloadPacket h body)
  · exact inUnit_live hm (reservedPacket h)

/-! ## The hunt (R153 to R156) -/

/-- TS.NOSYNC on a head that is no sync byte is one resynchronisation. -/
theorem exec_tsNosync {s : State} (hm : s.mode ≠ .fatal) (hbuf : s.pktbuf = []) {b : Bytes}
    (hoff : OffSync { s with pktbuf := b }) : exec (.tsNosync b) s = .next (resync { s with pktbuf := b }).1 := by
  obtain ⟨c, rest, rfl, hc⟩ := hoff
  show execTsNosync (c :: rest) s = _
  rw [execTsNosync, inUnit_live hm]
  simp only [hbuf, List.nil_append, if_neg hc]

/-- Settles O25: the least offset that is not refuted decides the hunt (`hunt_found`, `hunt_lost`, `hunt_wait`), TS.NOSYNC is
the hunt, and PUSH is framed by it. -/
theorem huntTakesTheLeastConfirmedOffset : Obligations.HuntTakesTheLeastConfirmedOffset := by
  intro b s hm hbuf hb hhead refuted confirmed w ends
  have hoff : OffSync { s with pktbuf := b } := by
    obtain ⟨c, rest, rfl⟩ := List.exists_cons_of_ne_nil hb
    exact ⟨c, rest, rfl, fun hc => hhead (congrArg some hc)⟩
  have hnosync := exec_tsNosync hm hbuf hoff
  have hends : ∀ {t}, (resync { s with pktbuf := b }).1 = t → Framed { s with pktbuf := b } t → ends t := fun hr hf =>
    ⟨hr ▸ hnosync, fun hfile => exec_push_of_framed hfile hbuf hf⟩
  refine ⟨fun k h1 hk hc hbefore => ?found, fun hall => ?lost, fun k h1 hk hc hr hbefore => ?wait⟩
  case found =>
    have hhunt : hunt w b = .found k := hunt_found h1 hk hbefore hc
    have hresync : (resync { s with pktbuf := b }).1 =
        { s with pktbuf := b.drop k, events := s.events ++ [.exn (.x01 k)] } := by
      rw [resync, hhunt]
      rfl
    refine ⟨hresync ▸ hnosync, fun hfile => ?_⟩
    obtain ⟨t, ht⟩ := exists_framed { s with pktbuf := b.drop k, events := s.events ++ [.exn (.x01 k)] }
    exact ⟨t, exec_push_of_framed hfile hbuf (.found hoff hhunt ht),
      exec_push_of_framed (s := { s with events := s.events ++ [.exn (.x01 k)] }) hfile hbuf ht⟩
  case lost =>
    have hhunt : hunt w b = .lost := hunt_lost hall
    exact hends (by rw [resync, hhunt]; rfl) (.lost hoff hhunt)
  case wait =>
    have hhunt : hunt w b = .wait := hunt_wait h1 hk hbefore hc hr
    have hlen : (b.drop 1).length < w + 188 := length_le_of_wait hhunt
    rw [List.length_drop] at hlen
    exact ⟨hends (by rw [resync, hhunt]) (.wait hoff hhunt), by omega⟩

/-! ## Chunks (R157) -/

theorem hunt_append {w : Nat} {b : Bytes} (hne : b ≠ []) (h : hunt w b ≠ .wait) (more : Bytes) :
    hunt w (b ++ more) = hunt w b := by
  obtain ⟨c, rest, rfl⟩ := List.exists_cons_of_ne_nil hne
  exact huntFrom_append h more

theorem OffSync.withMore {s : State} (h : OffSync s) (b : Bytes) : OffSync (withMore b s) := by
  obtain ⟨c, rest, hbuf, hc⟩ := h
  exact ⟨c, rest ++ b, congrArg (· ++ b) hbuf, hc⟩

theorem afterPacket_withMore {s : State} (h : Config.tsPkt ≤ s.pktbuf.length) (b : Bytes) :
    afterPacket (withMore b s) = withMore b (afterPacket s) := by
  have htake : (withMore b s).pktbuf.take Config.tsPkt = s.pktbuf.take Config.tsPkt := List.take_append_of_le_length h
  have hdrop : { withMore b s with pktbuf := (withMore b s).pktbuf.drop Config.tsPkt } =
      withMore b { s with pktbuf := s.pktbuf.drop Config.tsPkt } := by
    simp only [withMore, List.drop_append_of_le_length h]
  rw [afterPacket, htake, hdrop, packet_withMore, afterPacket]

theorem afterFound_withMore {s : State} {k : Nat} (h : k ≤ s.pktbuf.length) (b : Bytes) :
    afterFound k (withMore b s) = withMore b (afterFound k s) := by
  have hdrop : { withMore b s with pktbuf := (withMore b s).pktbuf.drop k } =
      withMore b { s with pktbuf := s.pktbuf.drop k } := by
    simp only [withMore, List.drop_append_of_le_length h]
  rw [afterFound, hdrop]
  rfl

/-- A packet that is there is handled as before with more bytes behind it. -/
theorem framed_packet_withMore {s t : State} {rest b : Bytes} (hbuf : s.pktbuf = Config.syncByte :: rest)
    (hlen : Config.tsPkt ≤ s.pktbuf.length) (h : Framed (withMore b (afterPacket s)) t) : Framed (withMore b s) t := by
  have hhead : (withMore b s).pktbuf = Config.syncByte :: (rest ++ b) := congrArg (· ++ b) hbuf
  have hmore : Config.tsPkt ≤ (withMore b s).pktbuf.length := hlen.trans (List.length_append ▸ Nat.le_add_right _ _)
  exact .packet hhead hmore (by rwa [afterPacket_withMore hlen])

/-- A confirmed offset is taken as before with more bytes behind it. -/
theorem framed_found_withMore {s t : State} {k : Nat} {b : Bytes} (hoff : OffSync s)
    (hhunt : hunt s.params.resyncWindow s.pktbuf = .found k) (h : Framed (withMore b (afterFound k s)) t) :
    Framed (withMore b s) t := by
  have hhunt' : hunt s.params.resyncWindow (s.pktbuf ++ b) = .found k :=
    (hunt_append hoff.ne_nil (by simp [hhunt]) b).trans hhunt
  have hlt : k < 1 + (s.pktbuf.drop 1).length := lt_of_found hhunt
  have hpos : 0 < s.pktbuf.length := List.length_pos_iff.mpr hoff.ne_nil
  rw [List.length_drop] at hlt
  exact .found (hoff.withMore b) hhunt' (by rwa [afterFound_withMore (by omega)])

/-- Framing what waits, then framing with more bytes, is framing all of it; once FATAL, the rest makes no difference. -/
theorem Framed.withMore {s t : State} (h : Framed s t) (hm : s.mode ≠ .fatal) (b : Bytes) :
    (t.mode = .fatal → Framed (withMore b s) t) ∧
      (t.mode ≠ .fatal → ∀ u, Framed (withMore b t) u → Framed (withMore b s) u) := by
  induction h with
  | empty | short | wait => exact ⟨fun hf => absurd hf hm, fun _ _ hu => hu⟩
  | packet hbuf hlen _ ih =>
    obtain ⟨hfatal, hlive⟩ := ih (by rwa [afterPacket_mode])
    exact ⟨fun hf => framed_packet_withMore hbuf hlen (hfatal hf),
      fun hl u hu => framed_packet_withMore hbuf hlen (hlive hl u hu)⟩
  | found hoff hhunt _ ih =>
    obtain ⟨hfatal, hlive⟩ := ih hm
    exact ⟨fun hf => framed_found_withMore hoff hhunt (hfatal hf),
      fun hl u hu => framed_found_withMore hoff hhunt (hlive hl u hu)⟩
  | lost hoff hhunt =>
    have hhunt' := (hunt_append hoff.ne_nil (by simp [hhunt]) b).trans hhunt
    exact ⟨fun _ => .lost (hoff.withMore b) hhunt', fun hl => absurd rfl hl⟩

/-- What a device in FILE, or FATAL after it, does with pushed bytes (R363, R370). -/
def takeBytes (b : Bytes) (s : State) : State := if s.mode = .fatal then s else demuxPush b s

/-- Two pushes are one of their concatenation. -/
theorem takeBytes_takeBytes (a b : Bytes) (s : State) : takeBytes b (takeBytes a s) = takeBytes (a ++ b) s := by
  by_cases hm : s.mode = .fatal
  · simp only [takeBytes, if_pos hm]
  obtain ⟨t, ht⟩ := exists_framed (withMore a s)
  have hfirst : demuxPush a s = t := demuxPush_of_framed hm ht
  obtain ⟨hfatal, hlive⟩ := ht.withMore hm b
  have hboth : withMore b (withMore a s) = withMore (a ++ b) s := by simp only [withMore, List.append_assoc]
  rw [hboth] at hfatal hlive
  rw [takeBytes, takeBytes, takeBytes, if_neg hm, if_neg hm, hfirst]
  by_cases ht' : t.mode = .fatal
  · rw [if_pos ht', demuxPush_of_framed hm (hfatal ht')]
  · obtain ⟨u, hu⟩ := exists_framed (withMore b t)
    rw [if_neg ht', demuxPush_of_framed ht' hu, demuxPush_of_framed hm (hlive ht' u hu)]

/-- Framing does not look at the requests that are pending. -/
theorem Framed.withInbox {s t : State} (h : Framed s t) (l : List Request) : Framed (withInbox l s) (withInbox l t) := by
  induction h with
  | empty hbuf => exact .empty hbuf
  | short hbuf hshort => exact .short hbuf hshort
  | wait hoff hhunt => exact .wait hoff hhunt
  | @lost s hoff hhunt => exact .lost (s := Machine.withInbox l s) hoff hhunt
  | @found s t k hoff hhunt _ ih => exact .found (s := Machine.withInbox l s) hoff hhunt ih
  | @packet s t rest hbuf hlen _ ih =>
    have hcommute : afterPacket (Machine.withInbox l s) = Machine.withInbox l (afterPacket s) :=
      packet_withInbox (s.pktbuf.take Config.tsPkt) l { s with pktbuf := s.pktbuf.drop Config.tsPkt }
    exact .packet (s := Machine.withInbox l s) hbuf hlen (by rwa [hcommute])

theorem takeBytes_withInbox (b : Bytes) (l : List Request) (s : State) :
    takeBytes b (withInbox l s) = withInbox l (takeBytes b s) := by
  by_cases hm : s.mode = .fatal
  · rw [takeBytes, takeBytes, if_pos hm]
    exact if_pos hm
  · obtain ⟨t, ht⟩ := exists_framed (withMore b s)
    have hpush : demuxPush b (withInbox l s) = withInbox l t := demuxPush_of_framed hm (ht.withInbox l)
    rw [takeBytes, takeBytes, if_neg hm, demuxPush_of_framed hm ht, ← hpush]
    exact if_neg hm

theorem takeBytes_mode {s : State} (h : s.mode = .file ∨ s.mode = .fatal) (b : Bytes) :
    (takeBytes b s).mode = .file ∨ (takeBytes b s).mode = .fatal := by
  unfold takeBytes
  split
  · exact h
  · obtain ⟨hsame, -⟩ | ⟨hfatal, -, -⟩ := (pushed_demuxPush b s).mode
    · rwa [hsame]
    · exact .inr hfatal

/-- A step on a pending PUSH in FILE, or in FATAL. -/
theorem step_push {s : State} (h : s.mode = .file ∨ s.mode = .fatal) (b : Bytes) (l : List Request) :
    step (withInbox (.host 0x02#8 b :: l) s) = .next (withInbox l (takeBytes b s)) := by
  have hstep : step (withInbox (.host 0x02#8 b :: l) s) = exec (.push b) (withInbox l s) := rfl
  rw [hstep, ← takeBytes_withInbox]
  obtain hfile | hfatal := h
  · have hlive : (withInbox l s).mode ≠ .fatal := fun hf => by cases hfile.symm.trans hf
    rw [takeBytes, if_neg hlive]
    exact exec_push (s := withInbox l s) hfile b
  · have hlatched : (withInbox l s).mode = .fatal := hfatal
    rw [takeBytes, if_pos hlatched]
    exact command_fatal hlatched 0x02#8 _ _

/-- The state after the bytes of several pushes. -/
def takeAll (cs : List Bytes) (s : State) : State := cs.foldl (fun s b => takeBytes b s) s

theorem takeAll_cons (c : Bytes) (cs : List Bytes) (s : State) : takeAll (c :: cs) s = takeBytes (c ++ cs.flatten) s := by
  induction cs generalizing c s with
  | nil => simp [takeAll]
  | cons d ds ih =>
    have hcut : takeAll (c :: d :: ds) s = takeAll (d :: ds) (takeBytes c s) := rfl
    rw [hcut, ih, takeBytes_takeBytes, List.flatten_cons]

/-- The inbox of the pending pushes. -/
def pushes (cs : List Bytes) : List Request := cs.map fun b => .host 0x02#8 b

/-- A run of one step per pending PUSH. -/
theorem run_pushes (cs : List Bytes) {s : State} (h : s.mode = .file ∨ s.mode = .fatal) :
    Host.Core.run Sys2Proof.core cs.length (withInbox (pushes cs) s) = .next (withInbox [] (takeAll cs s)) := by
  induction cs generalizing s with
  | nil => rfl
  | cons c rest ih =>
    have hstep : Sys2Proof.core.step (withInbox (pushes (c :: rest)) s) = .next (withInbox (pushes rest) (takeBytes c s)) :=
      step_push h c (pushes rest)
    have hrun : Host.Core.run Sys2Proof.core (rest.length + 1) (withInbox (pushes (c :: rest)) s) =
        Host.Core.run Sys2Proof.core rest.length (withInbox (pushes rest) (takeBytes c s)) := by
      simp only [Host.Core.run, hstep]
    exact hrun.trans (ih (takeBytes_mode h c))

/-- Settles O23: each run takes the pushed bytes in order (`run_pushes`), and the pushes are one of all of them
(`takeAll_cons`). -/
theorem chunksDoNotMatter : Obligations.ChunksDoNotMatter := by
  intro c cs s hfile
  have hall : takeAll (c :: cs) s = takeAll [(c :: cs).flatten] s := by
    rw [takeAll_cons, takeAll_cons, List.flatten_cons, List.flatten_nil, List.append_nil]
  calc Host.Core.run Sys2Proof.core (cs.length + 1) (withInbox (pushes (c :: cs)) s)
      = .next (withInbox [] (takeAll (c :: cs) s)) := run_pushes (c :: cs) (.inl hfile)
    _ = .next (withInbox [] (takeAll [(c :: cs).flatten] s)) := by rw [hall]
    _ = Host.Core.run Sys2Proof.core 1 (withInbox (pushes [(c :: cs).flatten]) s) :=
      (run_pushes [(c :: cs).flatten] (.inl hfile)).symm

end Sys2Proof.Machine
end

section
/-! PROOFS. The SEC rows on the PID of a section filter and the path of a splice section (R198 to R202, R250, R367): a row
hands its own bytes to the checks, and what passes them is decoded as its SPLICE row is. -/

namespace Sys2Proof.Machine

/-! ## The SEC rows -/

/-- The row that the decoder reads section bytes as hands those bytes to the checks of their path (R198, R200, R367). -/
theorem exec_of_decodeSection {pid : Option Pid} {tid : Byte} {h : SectionHeader} {body : Bytes} {i : Instr}
    (hi : decodeSection pid (sectionBytes tid h body) = .instr i) (htid : tid ≠ 0xFF#8) (s : State) :
    exec i s = inUnit (runSection pid (sectionBytes tid h body)) s := by
  by_cases hbody : h.bodyOk body = true
  · rw [decodeSection_sectionBytes htid hbody] at hi
    split at hi
    · next hpat => cases hi; rw [hpat]; rfl
    split at hi
    · next hpmt => cases hi; rw [hpmt]; rfl
    split at hi
    · next hsplice => cases hi; rw [hsplice]; rfl
    · cases hi; rfl
  · simp [decodeSection, sectionBytes, be16, be16_word, sectionFields_sectionWord, htid, hbody] at hi

/-- A section filter's SEC row where the declared length is legal is COMPLETE (R198, R200). -/
theorem exec_legal_section {p : Pid} {tid : Byte} {h : SectionHeader} {body : Bytes} {i : Instr} {s : State}
    (hi : decodeSection (some p) (sectionBytes tid h body) = .instr i) (htid : tid ≠ 0xFF#8)
    (hlen : h.sectionLength.toNat ≤ 4093) (hm : s.mode ≠ .fatal) (hwant : wantedTableId (formAt s p) ≠ none) :
    exec i s = .next (complete p (sectionBytes tid h body) s) := by
  obtain ⟨want, hwant⟩ := Option.ne_none_iff_exists'.mp hwant
  rw [exec_of_decodeSection hi htid, inUnit_live hm, runSection_legal hwant (by rwa [sectionLength_sectionBytes])]

/-- The CRC check fails where there is no room for a CRC, or it is a wrong one (R201). -/
theorem crcGood_eq_false_iff (sec : Bytes) : crcGood sec = false ↔
    sec.length < 4 ∨ crc (sec.take (sec.length - 4)) ≠ u32be sec (sec.length - 4) := by
  simp only [crcGood, Bool.and_eq_false_iff, decide_eq_false_iff_not, Nat.not_le, beq_eq_false_iff_ne]

/-- A table_id that is not the filter's is X09 (R202). -/
theorem complete_otherTableId {p : Pid} {sec : Bytes} {s : State} {want : Byte}
    (hwant : wantedTableId (formAt s p) = some want) (hcrc : crcGood sec = true) (htid : byteAt sec 0 ≠ want) :
    complete p sec s = raise (.x09 (some p) (byteAt sec 0)) s := by
  simp [complete, hwant, hcrc, htid]

/-- Settles O32: the row runs `runSection`, whose length check comes first, then `complete` with its two. -/
theorem sectionRowsCheckCrcThenTableId : Obligations.SectionRowsCheckCrcThenTableId := by
  intro p tid h body i s hm hdecode htid sec bad want hform
  have hi : decodeSection (some p) sec = .instr i := hdecode { form := .empty, cfg := 0#8 }
  have hwant : wantedTableId (formAt s p) = some want := by
    obtain ⟨hf, rfl⟩ | ⟨⟨pn, hf⟩, rfl⟩ | ⟨⟨e, k, hf⟩, rfl⟩ := hform <;> rw [hf] <;> rfl
  have hlegal : h.sectionLength.toNat ≤ 4093 → exec i s = .next (complete p sec s) := fun hlen =>
    exec_legal_section hi htid hlen hm (by simp [hwant])
  refine ⟨fun hlong => ?_, fun hlen hbad => ?_, fun hlen hgood hother => ?_⟩
  · have hsl : sectionLength sec = h.sectionLength := sectionLength_sectionBytes tid h body
    rw [exec_of_decodeSection hi htid, inUnit_live hm, runSection_long hwant (by rwa [hsl]), hsl]
    rfl
  · rw [hlegal hlen, complete_badCrc hwant ((crcGood_eq_false_iff sec).mpr hbad)]
    rfl
  · have hcrc : crcGood sec = true := by simpa using mt (crcGood_eq_false_iff sec).mp hgood
    rw [hlegal hlen, complete_otherTableId hwant hcrc hother]
    rfl

/-! ## The SPLICE rows -/

/-- A SPLICE row appends the events of its command (R250). -/
theorem inUnit_runSplice {s : State} (hm : s.mode ≠ .fatal) (enc : BitVec 1) (ty : Byte) (u : SpliceUnit)
    (k : SpliceCall → List Event) :
    inUnit (runSplice enc ty u k) s = .next (emitAll (k (unitCall enc ty u)) s) := by
  rw [inUnit_live hm, runSplice, withHeader_spliceBytes]

/-- SPLICE on a unit's own bytes dispatches on the unit's own selectors (R256, R259). -/
theorem spliceEvents_spliceBytes (enc : BitVec 1) (ty : Byte) (u : SpliceUnit) :
    spliceEvents u.srcPid u.pcr (spliceBytes enc ty u) = commandEvents (unitCall enc ty u) :=
  withHeader_spliceBytes enc ty u commandEvents

/-- The dispatch of a clear section on its splice_command_type (R259). -/
theorem commandEvents_clear (ty : Byte) (u : SpliceUnit) :
    commandEvents (unitCall 0#1 ty u) =
      let c := unitCall 0#1 ty u
      if ty = 0x00#8 then nullEvents c else if ty = 0x04#8 then scheduleEvents c
      else if ty = 0x05#8 then insertEvents c else if ty = 0x06#8 then timeSignalEvents c
      else if ty = 0x07#8 then bandwidthEvents c else if ty = 0xFF#8 then privateEvents c
      else reservedEvents c :=
  if_neg (show ¬ (0#1 = 1#1) by decide)

/-- The row that the decoder reads a CRC-stripped section as appends the events of SPLICE on it (R250, R256, R259). -/
theorem exec_of_decodeSplice {src : Option Pid} {pcr : Option PcrEntry} {buf : Bytes} {i : Instr}
    (hi : decodeSplice src pcr buf = .instr i) {s : State} (hm : s.mode ≠ .fatal) :
    exec i s = .next (emitAll (spliceEvents src pcr buf) s) := by
  obtain ⟨enc, ty, u, hparse⟩ : ∃ enc ty u, parseSplice src pcr buf = some (enc, ty, u) := by
    cases hparse : parseSplice src pcr buf with
    | none => simp [decodeSplice, hparse] at hi
    | some q => exact ⟨q.1, q.2.1, q.2.2, rfl⟩
  obtain ⟨rfl, rfl, rfl⟩ := spliceBytes_of_parseSplice hparse
  rw [spliceEvents_spliceBytes]
  obtain rfl | rfl : enc = 0#1 ∨ enc = 1#1 := BitVec.eq_zero_or_eq_one enc
  · rw [decodeSplice_clear] at hi
    rw [commandEvents_clear]
    repeat' split at hi
    all_goals cases hi
    all_goals simp only [*, if_true, if_false]
    all_goals exact inUnit_runSplice hm _ _ u _
  · have hrow : Instr.spliceEncrypted ty u = i := by simpa [decodeSplice, hparse] using hi
    rw [← hrow]
    exact inUnit_runSplice hm 1#1 ty u encryptedEvents

/-- Fewer than 14 bytes are no splice section (R251). -/
theorem spliceEvents_short {buf : Bytes} (h : buf.length < 14) (src : Option Pid) (pcr : Option PcrEntry) :
    spliceEvents src pcr buf = [.exn (.x11 src)] := if_pos h

/-! ## The path of a splice section -/

theorem length_sectionBytes (t : Byte) (h : SectionHeader) (body : Bytes) :
    (sectionBytes t h body).length = 3 + body.length := by
  simp only [sectionBytes, be16, List.cons_append, List.nil_append, List.length_cons]
  omega

/-- A good splice section on a Scte35 filter is decoded without its CRC, with the filter's PID and registry entry (R200,
R250). -/
theorem exec_secSplice_good {p e k : Pid} {h : SectionHeader} {body : Bytes} {s : State} (hm : s.mode ≠ .fatal)
    (hform : formAt s p = .scte35 e k) (hlen : h.sectionLength.toNat ≤ 4093)
    (hcrc : crcGood (sectionBytes 0xFC#8 h body) = true) :
    exec (.secSplice (some p) h body) s = .next (emitAll (spliceEvents (some e) (some (pcrAt s k))
      ((sectionBytes 0xFC#8 h body).take (body.length - 1))) s) := by
  have hwant : wantedTableId (formAt s p) = some 0xFC#8 := by rw [hform]; rfl
  have hstrip : (sectionBytes 0xFC#8 h body).length - 4 = body.length - 1 := by rw [length_sectionBytes]; omega
  calc exec (.secSplice (some p) h body) s
      = .next (runSection (some p) (sectionBytes 0xFC#8 h body) s) := inUnit_live hm _
    _ = .next (processSection p (formAt s p) (sectionBytes 0xFC#8 h body) s) := by
      rw [runSection_legal hwant (by rwa [sectionLength_sectionBytes]), complete_good hwant hcrc]
    _ = _ := by rw [hform, processSection, hstrip]

/-- A good splice section passes the checks of the literal path, whatever bytes follow it (R367). -/
theorem literalChecks_good {h : SectionHeader} {body : Bytes} (hbody : h.sectionLength.toNat = body.length)
    (hlen : body.length ≤ 4093) (hcrc : crcGood (sectionBytes 0xFC#8 h body) = true) (extra : Bytes) (s : State) :
    literalChecks (sectionBytes 0xFC#8 h body ++ extra) s =
      emitAll (spliceEvents none none ((sectionBytes 0xFC#8 h body).take (body.length - 1))) s := by
  have hsize := length_sectionBytes 0xFC#8 h body
  have hfirst : byteAt (sectionBytes 0xFC#8 h body) 0 = 0xFC#8 := rfl
  have hsl : (sectionLength (sectionBytes 0xFC#8 h body ++ extra)).toNat = body.length := by
    rw [sectionLength_append (by omega), sectionLength_sectionBytes, hbody]
  generalize sectionBytes 0xFC#8 h body = sec at *
  have htake : (sec ++ extra).take (3 + body.length) = sec := List.take_left' hsize
  have hroom : 3 + body.length ≤ (sec ++ extra).length := by simp [hsize]
  have hstrip : sec.length - 4 = body.length - 1 := by omega
  have hthree : ¬ (sec ++ extra).length < 3 := by omega
  have hlegal : ¬ Config.maxSectionLength < body.length := Nat.not_lt.mpr hlen
  have hgood : ¬ ((!crcGood sec) = true) := by simp [hcrc]
  simp only [literalChecks, hsl, htake, hfirst, hstrip, if_neg hthree, if_neg hlegal, if_neg (Nat.not_lt.mpr hroom),
    if_neg hgood, ne_eq, not_true_eq_false, if_false]

theorem exec_literalSection {s : State} (hsec : s.mode = .sec) (b : Bytes) :
    exec (.literalSection b) s = .next (literalChecks b { s with mode := .done }) := by
  calc exec (.literalSection b) s
      = command 0x07#8 (s.mode == .sec) (fun s => literalChecks b { s with mode := .done }) s := rfl
    _ = .next (literalChecks b { s with mode := .done }) := by
      rw [hsec]
      exact command_legal (by simp [hsec]) _ _

/-- Settles O38: both paths append the events of SPLICE on the CRC-stripped bytes, as the row they decode to does
(`exec_of_decodeSplice`). -/
theorem sectionPathRunsTheSpliceRow : Obligations.SectionPathRunsTheSpliceRow := by
  intro p e k h body extra s hbody hlen hcrc buf
  let key : Keys := { form := .empty, cfg := 0#8 }
  refine ⟨fun hm hform => ?_, fun hsec => ?_⟩
  · have hpath := exec_secSplice_good hm hform (hbody ▸ hlen) hcrc
    refine ⟨fun hshort => ?_, fun i hi => ⟨_, hpath, exec_of_decodeSplice (hi key) hm⟩⟩
    rw [hpath, spliceEvents_short hshort]
    rfl
  · have hpath := (exec_literalSection hsec (sectionBytes 0xFC#8 h body ++ extra)).trans
      (congrArg _ (literalChecks_good hbody hlen hcrc extra _))
    refine ⟨fun hshort => ?_, fun i hi => ⟨_, hpath, exec_of_decodeSplice (hi key) (by simp)⟩⟩
    rw [hpath, spliceEvents_short hshort]
    rfl

end Sys2Proof.Machine
end

section
/-! PROOFS. What the continuity step leaves (R192), and a payload that is dropped: the filter is idle and nothing else but the
events differs (R193, R197, R198, R204). -/

namespace Sys2Proof.Machine

/-! ## A section filter with a given counter and partial section -/

/-- The filter on `p` with `cc` as its last counter and `acc` as its partial section. -/
def holding (p : Pid) (cc : Cc) (acc : Option Bytes) (s : State) : State := setReasm p { lastCc := some cc, acc := acc } s

@[simp] theorem formAt_holding (p : Pid) (cc : Cc) (acc : Option Bytes) (s : State) (q : Pid) :
    formAt (holding p cc acc s) q = formAt s q := formAt_setReasm p _ s q

theorem reasmAt_holding {p : Pid} {r : Reasm} {s : State} (hr : reasmAt s p = some r) (cc : Cc) (acc : Option Bytes) :
    reasmAt (holding p cc acc s) p = some { lastCc := some cc, acc := acc } := reasmAt_setReasm hr _

theorem accAt_holding {p : Pid} {r : Reasm} {s : State} (hr : reasmAt s p = some r) (cc : Cc) (acc : Option Bytes) :
    accAt (holding p cc acc s) p = acc := accAt_eq (reasmAt_holding hr cc acc)

theorem setAcc_holding {p : Pid} {r : Reasm} {s : State} (hr : reasmAt s p = some r) (cc : Cc) (acc acc' : Option Bytes) :
    setAcc p acc (holding p cc acc' s) = holding p cc acc s := by
  rw [setAcc_spec (reasmAt_holding hr cc acc')]
  exact setReasm_setReasm hr _ _

theorem emitAll_nil (s : State) : emitAll [] s = s := by simp [emitAll]

theorem emitAll_emitAll (es es' : List Event) (s : State) : emitAll es' (emitAll es s) = emitAll (es ++ es') s := by
  simp [emitAll]

theorem setAcc_emitAll (p : Pid) (acc : Option Bytes) (es : List Event) (s : State) :
    setAcc p acc (emitAll es s) = emitAll es (setAcc p acc s) := by
  simp only [setAcc, reasmAt_emitAll]
  cases reasmAt s p <;> rfl

/-- A partial section dropped with a notice leaves an idle filter. -/
theorem drop_holding {p : Pid} {r : Reasm} {s : State} (hr : reasmAt s p = some r) {x : Exn} (hx : x.fatalCode = none)
    (cc : Cc) (acc : Option Bytes) :
    setAcc p none (raise x (holding p cc acc s)) = emitAll [.exn x] (holding p cc none s) := by
  rw [← raise_setAcc hx, setAcc_holding hr, raise_recoverable hx]
  rfl

/-! ## The continuity step (R192) -/

/-- A gap is a counter other than the last plus one modulo 16. -/
theorem ccGap_iff (last : Option Cc) (cc : Cc) :
    ccGap last cc = true ↔ ∃ c, last = some c ∧ cc.toNat ≠ (c.toNat + 1) % 16 := by
  cases last with
  | none => simp [ccGap]
  | some c =>
    have hnext : cc = c + 1#4 ↔ cc.toNat = (c.toNat + 1) % 16 := by rw [← BitVec.toNat_inj, BitVec.toNat_add]; rfl
    simp [ccGap, hnext]

/-- Without a gap, or with no section open, only last_cc is written. -/
theorem continuity_keeps {r : Reasm} {cc : Cc} (h : ¬ (r.acc ≠ none ∧ ccGap r.lastCc cc = true)) (p : Pid) (s : State) :
    continuity p cc r s = holding p cc r.acc s :=
  if_neg fun hgap => h hgap.symm

/-- A gap discards the section that was open. -/
theorem continuity_drops {r : Reasm} {cc : Cc} (hopen : r.acc ≠ none) (hgap : ccGap r.lastCc cc = true) (p : Pid)
    (s : State) : continuity p cc r s = emitAll [.exn (.x06 p)] (holding p cc none s) :=
  (if_pos ⟨hgap, hopen⟩).trans (raise_recoverable rfl _)

/-! ## Packets with a pointer_field -/

/-- A PUSI 1 packet with its pointer_field is the continuity step and what follows the pointer_field (R191). -/
theorem consume_starting {p : Pid} {r : Reasm} {s : State} (hr : reasmAt s p = some r) (cc : Cc) (ptr : Byte) (d : Bytes) :
    consume p 1#1 cc (ptr :: d) s = consumeStart p (formAt s p) ptr d (continuity p cc r s) := by
  simp [consume, hr]

/-- A pointer_field past the end of the payload drops the payload (R193). -/
theorem consumeStart_badPointer {ptr : Byte} {d : Bytes} (h : d.length < ptr.toNat) (p : Pid) (f : Form) (s : State) :
    consumeStart p f ptr d s = setAcc p none (raise (.x07 p) s) := if_pos h

theorem toNat_pointer {skip : Bytes} (h : skip.length < 256) : (BitVec.ofNat 8 skip.length).toNat = skip.length := by
  rw [BitVec.toNat_ofNat, Nat.mod_eq_of_lt h]

/-- With no section open, the bytes that the pointer_field skips are ignored (R194, R195). -/
theorem consumeStart_idle {p : Pid} {s : State} (hacc : accAt s p = none) {skip : Bytes} (hskip : skip.length < 256)
    (f : Form) (d : Bytes) :
    consumeStart p f (BitVec.ofNat 8 skip.length) (skip ++ d) s = (feed d.length p f d true s).1 := by
  have hinside : ¬ (skip ++ d).length < (BitVec.ofNat 8 skip.length).toNat := by
    rw [toNat_pointer hskip, List.length_append]; omega
  rw [consumeStart, if_neg hinside, toNat_pointer hskip]
  simp only [List.drop_left, if_pos hacc]

/-- A PUSI 1 packet on an idle filter is FEED on the bytes at the pointer. -/
theorem consume_from_idle {p : Pid} {r : Reasm} {s : State} (hr : reasmAt s p = some r) (hidle : r.acc = none) (cc : Cc)
    {skip : Bytes} (hskip : skip.length < 256) (d : Bytes) :
    consume p 1#1 cc (BitVec.ofNat 8 skip.length :: (skip ++ d)) s =
      (feed d.length p (formAt s p) d true (holding p cc none s)).1 := by
  rw [consume_starting hr, continuity_keeps (fun h => h.1 hidle), hidle,
    consumeStart_idle (accAt_holding hr cc none) hskip]

/-! ## Dropped payloads -/

/-- A header of a section that is too long (R198). -/
theorem gathered_long_header {h1 h0 : Byte} (hlong : 4093 < ((h1 ++ h0).extractLsb' 0 12).toNat) (tid : Byte)
    (rest : Bytes) : gathered (tid :: h1 :: h0 :: rest) = .tooLong ((h1 ++ h0).extractLsb' 0 12) :=
  gathered_tooLong (w := tid :: h1 :: h0 :: rest) (by simp) hlong

/-- The header of the section open is completed, and its length is too long (R197, R198). -/
theorem gather_long_header {a more : Bytes} {tid h1 h0 : Byte} (hmore : more ≠ []) (hhead : a ++ more = [tid, h1, h0])
    (hlong : 4093 < ((h1 ++ h0).extractLsb' 0 12).toNat) (rest : Bytes) :
    gather a (more ++ rest) = .tooLong ((h1 ++ h0).extractLsb' 0 12) := by
  have hshort : a.length < 3 := by
    have hpos := List.length_pos_iff.mpr hmore
    have hthree := congrArg List.length hhead
    rw [List.length_append] at hthree
    simp only [List.length_cons, List.length_nil] at hthree
    omega
  rw [gather_eq_gathered (gathered_header hshort), ← List.append_assoc, hhead]
  exact gathered_long_header hlong tid rest

/-- The state in which a payload is dropped: the filter idle with the packet's counter, and events appended. -/
theorem frame_of_dropped {p : Pid} {r : Reasm} {s : State} (hr : reasmAt s p = some r) (cc : Cc) (es : List Event) :
    let t := emitAll es (holding p cc none s)
    reasmAt t p = some { lastCc := some cc, acc := none } ∧ formAt t p = formAt s p ∧
      (∀ q, q ≠ p → slotAt t q = slotAt s q) ∧ t = { s with ft := t.ft, events := s.events ++ es } :=
  ⟨reasmAt_holding hr cc none, formAt_holding p cc none s p, fun _ hq => slotAt_setSlot_other hq _ s, rfl⟩

/-- Settles O29: after the continuity step (`continuity_keeps`, `continuity_drops`) each of the payloads ends the filter idle. -/
theorem droppedPayloadsLeaveTheFilterIdle : Obligations.DroppedPayloadsLeaveTheFilterIdle := by
  intro u d r s hm hd hr gap dropped
  have hrow : exec (routeRow (formAt s u.pid) u) s = .next (consume u.pid u.pusi u.cc d s) := by
    rw [exec_routeRow (exists_reasmAt_iff.mp ⟨r, hr⟩) hd hm, if_pos rfl]
  have hdropped : ∀ {es}, consume u.pid u.pusi u.cc d s = emitAll es (holding u.pid u.cc none s) → dropped es := by
    intro es h
    exact ⟨_, by rw [hrow, h], frame_of_dropped hr u.cc es⟩
  have hgap : ccGap r.lastCc u.cc = true ↔ gap := ccGap_iff r.lastCc u.cc
  refine ⟨fun hpusi hidle => hdropped ?_, fun hpusi hopen hg => hdropped ?_, fun hpusi ptr rest hpay hshort => ?_,
    fun tid h1 h0 rest hlong => ⟨fun skip hpusi hidle hskip htid hpay => hdropped ?_,
      fun a more hpusi hg ha hmore hhead hpay => hdropped ?_⟩⟩
  · have hcc := continuity_keeps (cc := u.cc) (fun h => h.1 hidle) u.pid s
    rw [hpusi, consume_continuing hr, hcc, hidle, feed_idle (accAt_holding hr u.cc none), emitAll_nil]
  · rw [hpusi, consume_continuing hr, continuity_drops hopen (hgap.mpr hg),
      feed_idle ((accAt_emitAll _ _ _).trans (accAt_holding hr u.cc none))]
  · have hx07 : consume u.pid u.pusi u.cc d s = setAcc u.pid none (raise (.x07 u.pid) (continuity u.pid u.cc r s)) := by
      rw [hpusi, hpay, consume_starting hr, consumeStart_badPointer hshort]
    refine ⟨fun hno => hdropped ?_, fun hopen hg => hdropped ?_⟩
    · rw [hx07, continuity_keeps (by rwa [hgap])]
      exact drop_holding hr rfl u.cc r.acc
    · rw [hx07, continuity_drops hopen (hgap.mpr hg), ← raise_setAcc rfl, setAcc_emitAll, setAcc_holding hr,
        raise_recoverable rfl]
      exact emitAll_emitAll _ _ _
  · have hlong' := gathered_long_header hlong tid rest
    rw [hpusi, hpay, consume_from_idle hr hidle u.cc hskip, List.length_cons,
      feed_begin (accAt_holding hr u.cc none) htid (by simp [hlong']), hlong']
    exact drop_holding hr rfl u.cc none
  · have hcc := continuity_keeps (cc := u.cc) (fun h => hg (hgap.mp h.2)) u.pid s
    rw [hpusi, hpay, consume_continuing hr, hcc, ha, feed_open (accAt_holding hr u.cc (some a)) (by simp [hmore]),
      gather_long_header hmore hhead hlong]
    exact drop_holding hr rfl u.cc (some a)

end Sys2Proof.Machine
end

section
/-! PROOFS. Sections that a packet completes, leaves open or cuts, and what is read after them (R191 to R206). -/

namespace Sys2Proof.Machine

/-! ## FEED where sections may start -/

/-- Stuffing, or no byte at all, starts nothing (R195). -/
theorem feed_stuffing {p : Pid} {s : State} (hacc : accAt s p = none) {d : Bytes}
    (hd : d.head? = none ∨ d.head? = some 0xFF#8) (n : Nat) (f : Form) : (feed n p f d true s).1 = s := by
  cases n with
  | zero => rfl
  | succ n =>
    cases d with
    | nil => rfl
    | cons b rest =>
      have hb : b = 0xFF#8 := by simpa using hd
      simp [feed, hacc, openSection, hb]

/-- FEED needs no more fuel than it has bytes (R455). -/
theorem feed_fuel {p : Pid} {f : Form} {n m : Nat} {d : Bytes} {s : State} (hacc : accAt s p = none) (hn : d.length ≤ n)
    (hm : d.length ≤ m) : (feed n p f d true s).1 = (feed m p f d true s).1 := by
  induction n generalizing d m s with
  | zero =>
    obtain rfl := List.length_eq_zero_iff.mp (Nat.le_zero.mp hn)
    rw [feed_stuffing hacc (.inl rfl), feed_stuffing hacc (.inl rfl)]
  | succ n ih =>
    by_cases hd : d.head? = none ∨ d.head? = some 0xFF#8
    · rw [feed_stuffing hacc hd, feed_stuffing hacc hd]
    cases d with
    | nil => simp at hd
    | cons b rest =>
      have hb : b ≠ 0xFF#8 := by simpa using hd
      obtain ⟨m, rfl⟩ : ∃ k, m = k + 1 := ⟨m - 1, by simp at hm; omega⟩
      cases hgathered : gathered (b :: rest) with
      | more a => rw [feed_begin hacc hb (by simp [hgathered]), feed_begin hacc hb (by simp [hgathered])]
      | tooLong sl => rw [feed_begin hacc hb (by simp [hgathered]), feed_begin hacc hb (by simp [hgathered])]
      | whole sec junk =>
        rw [feed_begin_whole hacc hb hgathered, feed_begin_whole hacc hb hgathered]
        obtain ⟨-, -, -, -, rfl⟩ := lengths_of_gathered_whole hgathered
        simp only [List.length_cons] at hn hm
        split
        · exact ih (accAt_complete (accAt_setAcc_none p s) _) (by simp; omega) (by simp; omega)
        · rfl

/-- The bytes after a section, where sections may start if the filter stayed (R195, R203). -/
def readOn (p : Pid) (f : Form) (more : Bytes) (t : State) : State :=
  if formAt t p = f then (feed more.length p f more true t).1 else t

theorem readOn_stuffing {p : Pid} {t : State} (hacc : accAt t p = none) {d : Bytes}
    (hd : d.head? = none ∨ d.head? = some 0xFF#8) (f : Form) : readOn p f d t = t := by
  unfold readOn
  split
  · exact feed_stuffing hacc hd _ f
  · rfl

/-! ## Whole sections and parts of one -/

/-- `sec` is one whole section of legal declared length, not stuffing, that decodes to the row `i` on `p` (R96, R202). -/
def IsSectionOf (p : Pid) (i : Instr) (sec : Bytes) : Prop :=
  ∃ tid h body, sec = sectionBytes tid h body ∧ tid ≠ 0xFF#8 ∧ h.sectionLength.toNat = body.length ∧ body.length ≤ 4093 ∧
    ∀ k, decode k (.sec (some p) sec) = .instr i

/-- `part` is the beginning of a section that it does not complete (R205). -/
def IsPart (part : Bytes) : Prop := Reasm.ok { lastCc := none, acc := some part } = true

theorem IsSectionOf.gathered_whole {p : Pid} {i : Instr} {sec : Bytes} (h : IsSectionOf p i sec) :
    gathered sec = .whole sec [] := by
  obtain ⟨tid, hdr, body, rfl, -, hbody, hlen, -⟩ := h
  have hsize := length_sectionBytes tid hdr body
  have hsl : (sectionLength (sectionBytes tid hdr body)).toNat = body.length := by rw [sectionLength_sectionBytes, hbody]
  rw [gathered_legal (by omega) (by rw [hsl]; exact hlen), hsl, ← hsize, if_neg (lt_irrefl _), List.take_length,
    List.drop_length]

/-- The row of a section is COMPLETE (R200). -/
theorem IsSectionOf.exec_complete {p : Pid} {i : Instr} {sec : Bytes} (h : IsSectionOf p i sec) {s : State}
    (hm : s.mode ≠ .fatal) (hwant : wantedTableId (formAt s p) ≠ none) : exec i s = .next (complete p sec s) := by
  obtain ⟨tid, hdr, body, rfl, htid, hbody, hlen, hi⟩ := h
  exact exec_legal_section (hi { form := .empty, cfg := 0#8 }) htid (hbody ▸ hlen) hm hwant

/-- FEED where a section starts, from an idle filter: COMPLETE, and then what follows. -/
theorem IsSectionOf.feed_idle {p : Pid} {i : Instr} {sec : Bytes} (h : IsSectionOf p i sec) {s : State} (hacc : accAt s p = none)
    (f : Form) (more : Bytes) :
    (feed (sec ++ more).length p f (sec ++ more) true s).1 = readOn p f more (complete p sec (setAcc p none s)) := by
  have hgathered := gathered_append_of_whole h.gathered_whole more
  obtain ⟨tid, hdr, body, rfl, htid, -⟩ := h
  rw [sectionBytes, List.cons_append] at hgathered ⊢
  rw [List.length_cons, feed_begin_whole hacc htid hgathered, readOn, List.nil_append]
  split
  · exact feed_fuel (accAt_complete (accAt_setAcc_none p s) _) (by simp [Nat.add_left_comm, ← Nat.add_assoc]) le_rfl
  · rfl

theorem IsPart.gathered_more {part : Bytes} (h : IsPart part) : gathered part = .more part := gathered_of_reasm_ok h rfl

/-- The beginning of bytes that leave a section open leaves it open. -/
theorem gathered_of_append_more {a tail : Bytes} (h : gathered (a ++ tail) = .more (a ++ tail)) : gathered a = .more a := by
  cases ha : gathered a with
  | more a' => rw [eq_of_gathered_more ha]
  | tooLong sl => rw [gathered_append_of_tooLong ha] at h; cases h
  | whole sec rest => rw [gathered_append_of_whole ha] at h; cases h

/-- The beginning of a whole section, without its end, leaves it open. -/
theorem gathered_of_append_whole {a tail : Bytes} (htail : tail ≠ []) (h : gathered (a ++ tail) = .whole (a ++ tail) []) :
    gathered a = .more a := by
  cases ha : gathered a with
  | more a' => rw [eq_of_gathered_more ha]
  | tooLong sl => rw [gathered_append_of_tooLong ha] at h; cases h
  | whole sec rest =>
    rw [gathered_append_of_whole ha] at h
    have hrest : rest ++ tail = [] := (Gather.whole.inj h).2
    exact absurd (List.append_eq_nil_iff.mp hrest).2 htail

/-! ## An idle filter that has counted the packet -/

/-- The section filter on `p` has no section open, and `cc` as its last counter: a packet with that counter finds nothing
to write in its continuity step. -/
structure IdleAt (p : Pid) (cc : Cc) (t : State) : Prop where
  filter : ∃ r, reasmAt t p = some r
  idle : accAt t p = none
  counted : setCc p cc t = t

theorem idleAt_holding {p : Pid} {r : Reasm} {s : State} (hr : reasmAt s p = some r) (cc : Cc) :
    IdleAt p cc (holding p cc none s) where
  filter := ⟨_, reasmAt_holding hr cc none⟩
  idle := accAt_holding hr cc none
  counted := by
    rw [setCc_spec (reasmAt_holding hr cc none)]
    exact setReasm_setReasm hr _ _

theorem IdleAt.append_events {p : Pid} {cc : Cc} {t : State} (h : IdleAt p cc t) (es : List Event) :
    IdleAt p cc (emitAll es t) where
  filter := h.filter
  idle := h.idle
  counted := by rw [setCc_emitAll, h.counted]

/-- COMPLETE leaves the filter idle, and its counter where the filter stayed (R192, R203). -/
theorem IdleAt.after_complete {p : Pid} {cc : Cc} {t : State} (h : IdleAt p cc t) {sec : Bytes}
    (hkept : formAt (complete p sec t) p = formAt t p) : IdleAt p cc (complete p sec t) where
  filter := by
    rw [exists_reasmAt_iff, hkept]
    exact exists_reasmAt_iff.mp h.filter
  idle := accAt_complete h.idle sec
  counted := by
    have hmoved := complete_recount (f := formAt t p) rfl cc sec
    rw [recount_kept rfl, h.counted, recount_kept hkept] at hmoved
    exact hmoved.symm

theorem IdleAt.continuity_eq {p : Pid} {cc : Cc} {t : State} (h : IdleAt p cc t) {r : Reasm} (hr : reasmAt t p = some r) :
    continuity p cc r t = t := by
  have hidle : r.acc = none := (accAt_eq hr).symm.trans h.idle
  calc continuity p cc r t = setReasm p { r with lastCc := some cc } t := if_neg fun hgap => hgap.2 hidle
    _ = setCc p cc t := (setCc_spec hr cc).symm
    _ = t := h.counted

/-- A packet with its pointer_field at the next byte reads the rest of its payload (R194, R195). -/
theorem IdleAt.consume_next {p : Pid} {cc : Cc} {t : State} (h : IdleAt p cc t) (more : Bytes) :
    consume p 1#1 cc (0x00#8 :: more) t = (feed more.length p (formAt t p) more true t).1 := by
  obtain ⟨r, hr⟩ := h.filter
  rw [consume_starting hr, h.continuity_eq hr]
  exact consumeStart_idle (skip := []) h.idle (by decide) _ more

/-! ## Packets on a filter with no section open -/

/-- A packet on an idle filter that brings a part of a section leaves it open. -/
theorem feed_part_from_idle {p : Pid} {r : Reasm} {s : State} (hr : reasmAt s p = some r) (cc : Cc) {part : Bytes}
    (hpart : IsPart part) (hhead : part.head? ≠ some 0xFF#8) (f : Form) :
    (feed part.length p f part true (holding p cc none s)).1 = holding p cc (some part) s := by
  cases part with
  | nil => cases hpart
  | cons b rest =>
    have hb : b ≠ 0xFF#8 := by simpa using hhead
    rw [List.length_cons, feed_begin (accAt_holding hr cc none) hb (by simp [hpart.gathered_more]), hpart.gathered_more]
    exact setAcc_holding hr cc _ _

/-! ## Packets on a filter with a section open -/

/-- A tail that leaves the section open is taken whole. -/
theorem feed_part {p : Pid} {r : Reasm} {s : State} (hr : reasmAt s p = some r) (cc : Cc) {a tail : Bytes}
    (hpart : IsPart (a ++ tail)) (f : Form) :
    (feed tail.length p f tail false (holding p cc (some a) s)).1 = holding p cc (some (a ++ tail)) s := by
  by_cases htail : tail = []
  · rw [htail, List.append_nil]; rfl
  have ha := gathered_of_append_more hpart.gathered_more
  rw [feed_open (accAt_holding hr cc (some a)) htail, gather_eq_gathered ha, hpart.gathered_more]
  exact setAcc_holding hr cc _ _

/-- A tail that completes the section ends in COMPLETE; the bytes after it are ignored. -/
theorem IsSectionOf.feed_tail {p : Pid} {i : Instr} {a tail : Bytes} (h : IsSectionOf p i (a ++ tail)) (htail : tail ≠ [])
    {r : Reasm} {s : State} (hr : reasmAt s p = some r) (cc : Cc) (f : Form) (junk : Bytes) :
    (feed (tail ++ junk).length p f (tail ++ junk) false (holding p cc (some a) s)).1 =
      complete p (a ++ tail) (holding p cc none s) := by
  have ha := gathered_of_append_whole htail h.gathered_whole
  rw [feed_open (accAt_holding hr cc (some a)) (by simp [htail]), gather_eq_gathered ha, ← List.append_assoc,
    gathered_append_of_whole h.gathered_whole, settle, setAcc_holding hr]

/-- A tail that completes a header of a section that is too long drops it (R198). -/
theorem feed_long_header {p : Pid} {r : Reasm} {s : State} (hr : reasmAt s p = some r) (cc : Cc) {a more : Bytes}
    {tid h1 h0 : Byte} (hmore : more ≠ []) (hhead : a ++ more = [tid, h1, h0])
    (hlong : 4093 < ((h1 ++ h0).extractLsb' 0 12).toNat) (ignored : Bytes) (f : Form) :
    (feed (more ++ ignored).length p f (more ++ ignored) false (holding p cc (some a) s)).1 =
      emitAll [.exn (.x05 (some p) ((h1 ++ h0).extractLsb' 0 12))] (holding p cc none s) := by
  rw [feed_open (accAt_holding hr cc (some a)) (by simp [hmore]), gather_long_header hmore hhead hlong]
  exact drop_holding hr rfl cc (some a)

/-- A section still open at the pointer is cut (R194). -/
def cutOff (p : Pid) (s : State) : State := if accAt s p = none then s else setAcc p none (raise (.x23 p) s)

theorem cutOff_idle {p : Pid} {s : State} (h : accAt s p = none) : cutOff p s = s := if_pos h

theorem cutOff_holding {p : Pid} {r : Reasm} {s : State} (hr : reasmAt s p = some r) (cc : Cc) (a : Bytes) :
    cutOff p (holding p cc (some a) s) = emitAll [.exn (.x23 p)] (holding p cc none s) := by
  rw [cutOff, accAt_holding hr, if_neg (by simp)]
  exact drop_holding hr rfl cc (some a)

/-- A PUSI 1 packet with a section open: FEED on the tail, then, if the filter stayed, the bytes at the pointer (R194). -/
theorem consumeStart_open {p : Pid} {f : Form} {s : State} {a tail : Bytes} (hacc : accAt s p = some a)
    (hf : formAt s p = f) (htail : tail.length < 256) (rest : Bytes) :
    consumeStart p f (BitVec.ofNat 8 tail.length) (tail ++ rest) s =
      let t := (feed tail.length p f tail false s).1
      if formAt t p = f then (feed rest.length p f rest true (cutOff p t)).1 else t := by
  have hinside : ¬ (tail ++ rest).length < (BitVec.ofNat 8 tail.length).toNat := by
    rw [toNat_pointer htail, List.length_append]; omega
  have hopen : ¬ accAt s p = none := by simp [hacc]
  have hkept := (filterSteps_feed tail.length tail false hf).2
  rw [consumeStart, if_neg hinside, toNat_pointer htail]
  simp only [List.take_left, List.drop_left, if_neg hopen]
  generalize feed tail.length p f tail false s = q at hkept ⊢
  obtain ⟨t, replaced⟩ := q
  cases replaced with
  | true => simp [mt hkept.mpr]
  | false => simp [hkept.mp rfl, cutOff]

/-- With a section open and no gap, the tail, and then the bytes at the pointer. -/
theorem consume_from_open {p : Pid} {r : Reasm} {s : State} {a : Bytes} {cc : Cc} (hr : reasmAt s p = some r)
    (ha : r.acc = some a) (hgap : ¬ ccGap r.lastCc cc = true) {tail : Bytes} (htail : tail.length < 256) (rest : Bytes) :
    consume p 1#1 cc (BitVec.ofNat 8 tail.length :: (tail ++ rest)) s =
      let t := (feed tail.length p (formAt s p) tail false (holding p cc (some a) s)).1
      if formAt t p = formAt s p then (feed rest.length p (formAt s p) rest true (cutOff p t)).1 else t := by
  rw [consume_starting hr, continuity_keeps (fun h => hgap h.2), ha]
  exact consumeStart_open (accAt_holding hr cc (some a)) (formAt_holding p cc _ s p) htail rest

/-- A tail that cuts the section, with a notice `x`, leaves the bytes at the pointer to be read as from idle. -/
theorem consume_cut {p : Pid} {r : Reasm} {s : State} {a : Bytes} {cc : Cc} (hr : reasmAt s p = some r)
    (ha : r.acc = some a) (hgap : ¬ ccGap r.lastCc cc = true) {tail : Bytes} (htail : tail.length < 256) (rest : Bytes)
    {es : List Event}
    (hkept : formAt (feed tail.length p (formAt s p) tail false (holding p cc (some a) s)).1 p = formAt s p)
    (hcut : cutOff p (feed tail.length p (formAt s p) tail false (holding p cc (some a) s)).1 =
      emitAll es (holding p cc none s)) :
    consume p 1#1 cc (BitVec.ofNat 8 tail.length :: (tail ++ rest)) s =
      consume p 1#1 cc (0x00#8 :: rest) (emitAll es (holding p cc none s)) := by
  rw [consume_from_open hr ha hgap htail, ((idleAt_holding hr cc).append_events es).consume_next]
  simp only [if_pos hkept, hcut, formAt_emitAll, formAt_holding]

/-- A packet with a gap is read as from idle after X06 (R192). -/
theorem consume_after_gap {p : Pid} {r : Reasm} {s : State} {cc : Cc} (hr : reasmAt s p = some r) (hopen : r.acc ≠ none)
    (hgap : ccGap r.lastCc cc = true) (pusi : BitVec 1) (d : Bytes) :
    consume p pusi cc d s = consume p pusi cc d (emitAll [.exn (.x06 p)] (holding p cc none s)) := by
  have hidle := (idleAt_holding hr cc).append_events [.exn (.x06 p)]
  have hr' : reasmAt (emitAll [.exn (.x06 p)] (holding p cc none s)) p = some { lastCc := some cc, acc := none } :=
    reasmAt_holding hr cc none
  simp only [consume, hr, hr', continuity_drops hopen hgap, hidle.continuity_eq hr', formAt_emitAll, formAt_holding]

/-! ## The rows -/

/-- The FILTER row of the slot's form, on a packet with `u`'s PID and counter. -/
def filterRow (u : RouteUnit) (pusi : BitVec 1) (d : Bytes) (s : State) : Answer :=
  exec (routeRow (formAt s u.pid) { u with pusi := pusi, payload := some d }) s

theorem filterRow_eq {u : RouteUnit} {s : State} (hm : s.mode ≠ .fatal) (hwant : wantedTableId (formAt s u.pid) ≠ none)
    (pusi : BitVec 1) (d : Bytes) : filterRow u pusi d s = .next (consume u.pid pusi u.cc d s) := by
  rw [filterRow, exec_routeRow hwant rfl hm, if_pos rfl]

/-- The state of `s` with `u`'s filter idle, its counter `u`'s, and events appended. -/
def idleAfter (u : RouteUnit) (es : List Event) (s : State) : State := emitAll es (holding u.pid u.cc none s)

/-- The packet with payload `d` ends as `i` from idle does, and then, if the filter stayed, as `more` at the pointer. -/
def ThenRead (u : RouteUnit) (s : State) (i : Instr) (d more : Bytes) : Prop :=
  ∃ t₁, exec i (idleAfter u [] s) = .next t₁ ∧
    (formAt t₁ u.pid = formAt s u.pid →
      ∃ t, filterRow u 1#1 d s = .next t ∧ filterRow u 1#1 (0x00#8 :: more) t₁ = .next t) ∧
    (formAt t₁ u.pid ≠ formAt s u.pid → filterRow u 1#1 d s = .next t₁)

section
variable {u : RouteUnit} {r : Reasm} {s : State}

theorem IsSectionOf.exec_idleAfter {i : Instr} {sec : Bytes} (hsec : IsSectionOf u.pid i sec) (hm : s.mode ≠ .fatal)
    (hr : reasmAt s u.pid = some r) :
    exec i (idleAfter u [] s) = .next (complete u.pid sec (holding u.pid u.cc none s)) := by
  rw [idleAfter, emitAll_nil]
  exact hsec.exec_complete hm (by rw [formAt_holding]; exact exists_reasmAt_iff.mp ⟨r, hr⟩)

/-- A packet that completes a section and hands the bytes after it on, if the filter stayed. -/
theorem thenRead_of_readOn {i : Instr} {sec d more : Bytes} (hm : s.mode ≠ .fatal) (hr : reasmAt s u.pid = some r)
    (hsec : IsSectionOf u.pid i sec)
    (hd : consume u.pid 1#1 u.cc d s =
      readOn u.pid (formAt s u.pid) more (complete u.pid sec (holding u.pid u.cc none s))) : ThenRead u s i d more := by
  have hwant := exists_reasmAt_iff.mp ⟨r, hr⟩
  refine ⟨_, hsec.exec_idleAfter hm hr, fun hkept => ⟨_, filterRow_eq hm hwant 1#1 d, ?_⟩, fun hreplaced => ?_⟩
  · have hready := (idleAt_holding hr u.cc).after_complete (hkept.trans (formAt_holding _ _ _ _ _).symm)
    rw [filterRow_eq (by rwa [(quiet_complete u.pid sec _).mode]) (hkept ▸ hwant), hready.consume_next, hd, readOn, if_pos hkept,
      hkept]
  · rw [filterRow_eq hm hwant, hd, readOn, if_neg hreplaced]

/-- A section at the pointer of an idle filter, and the bytes after it. -/
theorem consume_section {i : Instr} {sec : Bytes} (hr : reasmAt s u.pid = some r) (hidle : r.acc = none)
    (hsec : IsSectionOf u.pid i sec) {skip : Bytes} (hskip : skip.length < 256) (more : Bytes) :
    consume u.pid 1#1 u.cc (BitVec.ofNat 8 skip.length :: skip ++ sec ++ more) s =
      readOn u.pid (formAt s u.pid) more (complete u.pid sec (holding u.pid u.cc none s)) := by
  rw [List.append_assoc, List.cons_append, consume_from_idle hr hidle u.cc hskip,
    hsec.feed_idle (accAt_holding hr u.cc none), setAcc_holding hr]

/-- A tail that completes the section open, and the bytes at the pointer. -/
theorem consume_section_tail {i : Instr} {a tail : Bytes} (hr : reasmAt s u.pid = some r) (ha : r.acc = some a)
    (hgap : ¬ ccGap r.lastCc u.cc = true) (hsec : IsSectionOf u.pid i (a ++ tail)) (htail : tail ≠ []) {junk : Bytes}
    (hlen : (tail ++ junk).length < 256) (rest : Bytes) :
    consume u.pid 1#1 u.cc (BitVec.ofNat 8 (tail ++ junk).length :: (tail ++ junk) ++ rest) s =
      readOn u.pid (formAt s u.pid) rest (complete u.pid (a ++ tail) (holding u.pid u.cc none s)) := by
  rw [List.cons_append, consume_from_open hr ha hgap hlen, hsec.feed_tail htail hr]
  simp only [cutOff_idle (accAt_complete (accAt_holding hr u.cc none) _), readOn]

/-- A PUSI 0 packet that goes on with the section open is FEED. -/
theorem consume_continuing_open {a : Bytes} (hr : reasmAt s u.pid = some r) (ha : r.acc = some a)
    (hgap : ¬ ccGap r.lastCc u.cc = true) (d : Bytes) :
    consume u.pid 0#1 u.cc d s = (feed d.length u.pid (formAt s u.pid) d false (holding u.pid u.cc (some a) s)).1 := by
  rw [consume_continuing hr, continuity_keeps (fun h => hgap h.2), ha]

end

/-- Settles O30: from an idle filter the packet is FEED at the pointer (`consume_from_idle`), with a section open first on the
tail (`consume_from_open`, `consume_cut`), and after a gap as from idle (`consume_after_gap`). -/
theorem wholeSectionInOnePacketCompletes : Obligations.WholeSectionInOnePacketCompletes := by
  intro u r s hm hr gap row holds idle isPart pointer isSection thenRead
  have hwant : wantedTableId (formAt s u.pid) ≠ none := exists_reasmAt_iff.mp ⟨r, hr⟩
  have hrow : ∀ pusi d, row pusi d s = .next (consume u.pid pusi u.cc d s) := filterRow_eq hm hwant
  have hrowIdle : ∀ pusi d es, row pusi d (idle es) = .next (consume u.pid pusi u.cc d (idleAfter u es s)) :=
    fun pusi d es => filterRow_eq (s := idleAfter u es s) hm (by rwa [idleAfter, formAt_emitAll, formAt_holding]) pusi d
  have hexec : ∀ {i sec}, isSection i sec →
      exec i (idle []) = .next (complete u.pid sec (holding u.pid u.cc none s)) := fun hsec => IsSectionOf.exec_idleAfter hsec hm hr
  have hidle : holds none = idle [] := (emitAll_nil _).symm
  have hacc : accAt (holding u.pid u.cc none s) u.pid = none := accAt_holding hr u.cc none
  have hgap : ccGap r.lastCc u.cc = true ↔ gap := ccGap_iff r.lastCc u.cc
  refine ⟨fun hnone skip hskip => ⟨fun i sec n hsec => ⟨_, ?_, hexec hsec⟩, fun i sec more hsec => ?_, fun more hmore => ?_,
    fun part hpart hhead => ?_⟩, fun a ha => ⟨fun hg d => ?_, fun hg tail _ hpart => ?_,
    fun hg tail htail i hsec junk => ⟨⟨_, ?_, hexec hsec⟩, fun hlen rest => ?_⟩, fun hg tail rest hlen x hx => ?_⟩⟩
  · have hstuffing : (List.replicate n 0xFF#8).head? = none ∨ (List.replicate n 0xFF#8).head? = some 0xFF#8 := by
      cases n with
      | zero => exact .inl rfl
      | succ n => exact .inr rfl
    rw [hrow, consume_section hr hnone hsec hskip, readOn_stuffing (accAt_complete hacc sec) hstuffing]
  · exact thenRead_of_readOn hm hr hsec (consume_section hr hnone hsec hskip more)
  · rw [hrow, ← hidle]
    exact congrArg _ ((consume_from_idle hr hnone u.cc hskip more).trans (feed_stuffing hacc hmore _ _))
  · rw [hrow]
    exact congrArg _ ((consume_from_idle hr hnone u.cc hskip part).trans (feed_part_from_idle hr u.cc hpart hhead _))
  · exact ⟨_, hrow 1#1 d, by rw [hrowIdle, consume_after_gap hr (by simp [ha]) (hgap.mpr hg)]; rfl⟩
  · rw [hrow, consume_continuing_open hr ha (mt hgap.mp hg), feed_part hr u.cc hpart]
    rfl
  · rw [hrow, consume_continuing_open hr ha (mt hgap.mp hg), IsSectionOf.feed_tail hsec htail hr]
  · exact thenRead_of_readOn hm hr hsec (consume_section_tail hr ha (mt hgap.mp hg) hsec htail hlen rest)
  · refine ⟨_, hrow 1#1 _, (hrowIdle 1#1 _ _).trans (congrArg _ (Eq.symm ?_))⟩
    obtain ⟨hpart, rfl⟩ | ⟨tid, h1, h0, more, ignored, rfl, hmore, hhead, hlong, rfl⟩ := hx
    · have htail := feed_part hr u.cc hpart (formAt s u.pid)
      exact consume_cut hr ha (mt hgap.mp hg) hlen rest (by rw [htail, formAt_holding]) (by rw [htail, cutOff_holding hr])
    · have htail := feed_long_header hr u.cc hmore hhead hlong ignored (formAt s u.pid)
      refine consume_cut hr ha (mt hgap.mp hg) hlen rest (by rw [htail, formAt_emitAll, formAt_holding]) ?_
      rw [htail, cutOff_idle ((accAt_emitAll _ _ _).trans hacc)]

end Sys2Proof.Machine
end

section
/-! PROOFS. A table applied again (R220, R232): which tables a section is does not depend on the filter that takes it, and a
list of classifications applied twice writes what it wrote. -/

namespace Sys2Proof.Machine

/-! ## A list of classifications applied twice (R232)

A write to a slot makes what the slot held before it irrelevant, and after it the slot holds a fresh filter where a
write of that filter puts it. -/

/-- The state is as a write of a fresh filter of the slot's form leaves it. -/
def HoldsFresh (p : Pid) (s : State) : Prop := formAt s p ≠ .empty ∧ setSlot p (freshSlot (formAt s p)) s = s

theorem holdsFresh_setSlot {f : Form} (hf : f ≠ .empty) (p : Pid) (s : State) :
    HoldsFresh p (setSlot p (freshSlot f) s) := by
  have hform : formAt (setSlot p (freshSlot f) s) p = f := by simp [formAt]
  rw [HoldsFresh, hform]
  exact ⟨hf, setSlot_setSlot (freshSlot_ne_empty hf) (freshSlot_ne_empty hf) p s⟩

/-- CLASSIFY on a slot that a write has left fresh is the write of its own filter. -/
theorem HoldsFresh.classify_eq {p : Pid} {s : State} (h : HoldsFresh p s) (f : Form) :
    classify p f s = setSlot p (freshSlot f) s := by
  obtain ⟨hne, hsame⟩ := h
  unfold classify
  split
  · next hf => rw [← hf.1, hsame]
  · rfl

/-- CLASSIFY on one slot commutes with a write to another. -/
theorem classify_setSlot_other {p q : Pid} (hq : q ≠ p) {f : Form} (hf : f ≠ .empty) {v : Slot} (hv : v ≠ .empty)
    (s : State) : classify q f (setSlot p v s) = setSlot p v (classify q f s) := by
  have hform : formAt (setSlot p v s) q = formAt s q := by rw [formAt, slotAt_setSlot_other hq, formAt]
  rw [classify, classify, hform]
  split
  · rfl
  · exact setSlot_comm hq (freshSlot_ne_empty hf) hv s

/-- A write absorbs a CLASSIFY on its slot. -/
theorem setSlot_classify_same {p : Pid} {f : Form} (hf : f ≠ .empty) {v : Slot} (hv : v ≠ .empty) (s : State) :
    setSlot p v (classify p f s) = setSlot p v s := by
  unfold classify
  split
  · rfl
  · exact setSlot_setSlot hv (freshSlot_ne_empty hf) p s

theorem HoldsFresh.classify {p : Pid} {s : State} (h : HoldsFresh p s) (q : Pid) {f : Form} (hf : f ≠ .empty) :
    HoldsFresh p (classify q f s) := by
  by_cases hq : q = p
  · subst hq
    rw [h.classify_eq]
    exact holdsFresh_setSlot hf q s
  · obtain ⟨hne, hsame⟩ := h
    have hform : formAt (Machine.classify q f s) p = formAt s p := by
      rw [formAt, slotAt_classify_other (Ne.symm hq), formAt]
    rw [HoldsFresh, hform, ← classify_setSlot_other hq hf (freshSlot_ne_empty hne), hsame]
    exact ⟨hne, rfl⟩

theorem HoldsFresh.classifyAll {p : Pid} {cs : List (Pid × Form)} (hcs : ∀ c ∈ cs, c.2 ≠ .empty) {s : State}
    (h : HoldsFresh p s) : HoldsFresh p (classifyAll cs s) := by
  induction cs generalizing s with
  | nil => exact h
  | cons c rest ih =>
    obtain ⟨hc, hrest⟩ := List.forall_mem_cons.mp hcs
    exact ih hrest (h.classify c.1 hc)

/-- A write to a slot hides, from any classifications after it and a second write, what the slot held. -/
theorem setSlot_classifyAll_setSlot {cs : List (Pid × Form)} (hcs : ∀ c ∈ cs, c.2 ≠ .empty) {v : Slot} (hv : v ≠ .empty)
    (p : Pid) (s : State) : setSlot p v (classifyAll cs (setSlot p v s)) = setSlot p v (classifyAll cs s) := by
  induction cs using List.reverseRecOn with
  | nil => exact setSlot_setSlot hv hv p s
  | append_singleton cs c ih =>
    obtain ⟨hinit, hlast⟩ := List.forall_mem_append.mp hcs
    have hc : c.2 ≠ .empty := hlast c (List.mem_singleton_self c)
    rw [classifyAll_concat, classifyAll_concat]
    by_cases hq : c.1 = p
    · rw [hq, setSlot_classify_same hc hv, setSlot_classify_same hc hv]
      exact ih hinit
    · rw [← classify_setSlot_other hq hc hv, ← classify_setSlot_other hq hc hv, ih hinit]

/-- Classifications applied again change nothing: the last one either finds its form, or its write is made again. -/
theorem classifyAll_idem {cs : List (Pid × Form)} (hcs : ∀ c ∈ cs, c.2 ≠ .empty) (s : State) :
    classifyAll cs (classifyAll cs s) = classifyAll cs s := by
  induction cs using List.reverseRecOn with
  | nil => rfl
  | append_singleton cs c ih =>
    obtain ⟨p, f⟩ := c
    obtain ⟨hinit, hlast⟩ := List.forall_mem_append.mp hcs
    have hf : f ≠ .empty := hlast (p, f) (List.mem_singleton_self _)
    have hv := freshSlot_ne_empty hf
    have hidem := ih hinit
    rw [classifyAll_concat, classifyAll_concat]
    generalize classifyAll cs s = t at hidem ⊢
    by_cases hform : formAt t p = f
    · have hkept : classify p f t = t := if_pos ⟨hform, hf⟩
      simp only [hkept, hidem]
    · have hwritten : classify p f t = setSlot p (freshSlot f) t := if_neg fun h => hform h.1
      simp only [hwritten]
      calc classify p f (classifyAll cs (setSlot p (freshSlot f) t))
          = setSlot p (freshSlot f) (classifyAll cs (setSlot p (freshSlot f) t)) :=
            ((holdsFresh_setSlot hf p t).classifyAll hinit).classify_eq f
        _ = setSlot p (freshSlot f) (classifyAll cs t) := setSlot_classifyAll_setSlot hinit hv p t
        _ = setSlot p (freshSlot f) t := by rw [hidem]

theorem applyPat_idem (ps : List (BitVec 16 × Pid)) (s : State) : applyPat ps (applyPat ps s) = applyPat ps s := by
  simp only [applyPat_eq]
  exact classifyAll_idem (List.forall_mem_map.mpr fun e _ => by simp) s

theorem applyPmt_idem (p : Pid) (es : List (Pid × Bool)) (s : State) :
    applyPmt p es (applyPmt p es s) = applyPmt p es s := by
  have hentry : withEntry p (applyPmt p es s) = applyPmt p es s := if_neg (by rw [pcrAt_applyPmt]; split <;> simp_all)
  rw [applyPmt_eq, hentry, applyPmt_eq]
  exact classifyAll_idem (List.forall_mem_map.mpr fun e _ => streamForm_ne_empty p e) _

/-! ## The tables that a section is (R221, R225) -/

/-- On a filter of form `f` the section is a table, and `op` is what it writes: a PAT that is whole, or a PMT that parses
for the filter's program. -/
inductive IsTable (p : Pid) (sec : Bytes) : Form → (State → State) → Prop
  | pat : byteAt sec 0 = 0x00#8 → patBad sec = false → IsTable p sec .pat (applyPat (patPrograms sec))
  | pmt {pn : BitVec 16} {es : List (Pid × Bool)} : byteAt sec 0 = 0x02#8 → parsePmt pn sec = .streams es →
      IsTable p sec (.pmt pn) (applyPmt p es)

/-- A PMT parses for the program that it names and for no other (R227). -/
theorem program_of_parsePmt {pn : BitVec 16} {sec : Bytes} {es : List (Pid × Bool)} (h : parsePmt pn sec = .streams es) :
    u16be sec 3 = pn := by
  by_contra hother
  unfold parsePmt at h
  rw [if_pos hother] at h
  split at h <;> cases h

/-- What a section writes as a table is the same for every filter that takes it as one. -/
theorem IsTable.unique {p : Pid} {sec : Bytes} {f g : Form} {op op' : State → State} (h : IsTable p sec f op)
    (h' : IsTable p sec g op') : op = op' := by
  cases h with
  | pat htid _ =>
    cases h' with
    | pat => rfl
    | pmt htid' _ => exact absurd (htid.symm.trans htid') (by decide)
  | pmt htid hparse =>
    cases h' with
    | pat htid' _ => exact absurd (htid.symm.trans htid') (by decide)
    | pmt _ hparse' =>
      obtain rfl := (program_of_parsePmt hparse).symm.trans (program_of_parsePmt hparse')
      rw [PmtParse.streams.inj (hparse.symm.trans hparse')]

theorem IsTable.idem {p : Pid} {sec : Bytes} {f : Form} {op : State → State} (h : IsTable p sec f op) (s : State) :
    op (op s) = op s := by
  cases h with
  | pat => exact applyPat_idem _ s
  | pmt => exact applyPmt_idem p _ s

/-- The section passes the checks that no filter decides (R198, R201). -/
def Intact (sec : Bytes) : Prop := (sectionLength sec).toNat ≤ 4093 ∧ crcGood sec = true

/-- A section filter takes an intact section of its table_id to its processing (R200). -/
theorem Intact.runSection_eq {sec : Bytes} (h : Intact sec) {p : Pid} {s : State}
    (hwant : wantedTableId (formAt s p) = some (byteAt sec 0)) :
    runSection (some p) sec s = processSection p (formAt s p) sec s := by
  rw [runSection_legal hwant h.1, complete_good hwant h.2]

/-- One that is not intact ends in events (R198, R201). -/
theorem runSection_of_not_intact {sec : Bytes} (h : ¬ Intact sec) (p : Pid) (s : State) :
    ∃ es, runSection (some p) sec s = emitAll es s := by
  by_cases hwant : wantedTableId (formAt s p) = some (byteAt sec 0)
  · by_cases hlen : (sectionLength sec).toNat ≤ 4093
    · have hcrc : crcGood sec = false := Bool.eq_false_iff.mpr fun hgood => h ⟨hlen, hgood⟩
      rw [runSection_legal hwant hlen, complete_badCrc hwant hcrc]
      exact ⟨_, raise_recoverable rfl s⟩
    · rw [runSection_long hwant (Nat.not_le.mp hlen)]
      exact ⟨_, raise_recoverable rfl s⟩
  · exact runSection_emits fun hwant' => absurd hwant' hwant

/-- An intact table is written. -/
theorem IsTable.runSection_eq {p : Pid} {sec : Bytes} {s : State} {op : State → State} (h : IsTable p sec (formAt s p) op)
    (hsec : Intact sec) : runSection (some p) sec s = op s := by
  generalize hform : formAt s p = f at h
  cases h with
  | pat htid hgood =>
    rw [hsec.runSection_eq (by rw [hform, htid]; rfl), hform]
    simp [processSection, patSection, hgood]
  | pmt htid hparse =>
    rw [hsec.runSection_eq (by rw [hform, htid]; rfl), hform]
    simp [processSection, pmtSection, hparse]

/-- A section that is no table of its filter ends in events (R202, R222, R226, R227). -/
theorem runSection_of_no_table {p : Pid} {sec : Bytes} {s : State} (h : ∀ op, ¬ IsTable p sec (formAt s p) op) :
    ∃ es, runSection (some p) sec s = emitAll es s := by
  by_cases hsec : Intact sec
  case neg => exact runSection_of_not_intact hsec p s
  by_cases hwant : wantedTableId (formAt s p) = some (byteAt sec 0)
  case neg => exact runSection_emits fun hwant' => absurd hwant' hwant
  rw [hsec.runSection_eq hwant]
  cases hform : formAt s p with
  | empty | null | pcrWatch => exact ⟨[], (emitAll_nil s).symm⟩
  | scte35 => exact ⟨_, rfl⟩
  | pat =>
    rw [hform] at h hwant
    cases hgood : patBad sec with
    | false => exact absurd (.pat (Option.some.inj hwant).symm hgood) (h _)
    | true =>
      rw [processSection, patSection, if_pos hgood]
      exact ⟨_, raise_recoverable rfl s⟩
  | pmt pn =>
    rw [hform] at h hwant
    rw [processSection, pmtSection]
    cases hparse : parsePmt pn sec with
    | bad => exact ⟨_, raise_recoverable rfl s⟩
    | otherProgram n => exact ⟨_, raise_recoverable rfl s⟩
    | streams es => exact absurd (.pmt (Option.some.inj hwant).symm hparse) (h _)

/-! ## The section taken again (R220) -/

/-- A section taken again leaves both tables: where it is still a table of the filter, it was that table before. -/
theorem runSection_again (p : Pid) (sec : Bytes) (s : State) :
    let t := runSection (some p) sec s
    (runSection (some p) sec t).ft = t.ft ∧ (runSection (some p) sec t).pcrreg = t.pcrreg := by
  intro t
  have of_emits : (∃ es, runSection (some p) sec t = emitAll es t) →
      (runSection (some p) sec t).ft = t.ft ∧ (runSection (some p) sec t).pcrreg = t.pcrreg := by
    rintro ⟨es, hes⟩
    rw [hes]
    exact ⟨rfl, rfl⟩
  by_cases hsec : Intact sec
  case neg => exact of_emits (runSection_of_not_intact hsec p t)
  by_cases hagain : ∃ op, IsTable p sec (formAt t p) op
  case neg => exact of_emits (runSection_of_no_table (not_exists.mp hagain))
  obtain ⟨op, hop⟩ := hagain
  by_cases hfirst : ∃ op', IsTable p sec (formAt s p) op'
  · obtain ⟨op', hop'⟩ := hfirst
    obtain rfl := hop'.unique hop
    have ht : t = op' s := hop'.runSection_eq hsec
    have hsame : runSection (some p) sec t = t := by rw [hop.runSection_eq hsec, ht, hop.idem]
    exact ⟨congrArg State.ft hsame, congrArg State.pcrreg hsame⟩
  · obtain ⟨es, hes⟩ := runSection_of_no_table (not_exists.mp hfirst)
    have hform : formAt t p = formAt s p := (congrArg (formAt · p) hes).trans (formAt_emitAll es s p)
    exact absurd ⟨op, hform ▸ hop⟩ hfirst

/-- Settles O36: both rows are `runSection`, and a section run again leaves both tables (`runSection_again`); in FATAL nothing
is run. -/
theorem tablesAreIdempotent : Obligations.TablesAreIdempotent := by
  intro p h body i s hi
  have hrow : ∃ sec, ∀ s, exec i s = inUnit (runSection (some p) sec) s := by
    obtain rfl | rfl := hi
    · exact ⟨sectionBytes 0x00#8 h body, fun _ => rfl⟩
    · exact ⟨sectionBytes 0x02#8 h body, fun _ => rfl⟩
  obtain ⟨sec, hexec⟩ := hrow
  by_cases hm : s.mode = .fatal
  · have hstay : exec i s = .next s := by rw [hexec, inUnit_fatal hm]
    exact ⟨s, s, hstay, hstay, rfl, rfl⟩
  · have hm' : (runSection (some p) sec s).mode ≠ .fatal := by rwa [(quiet_runSection _ sec s).mode]
    exact ⟨_, _, by rw [hexec, inUnit_live hm], by rw [hexec, inUnit_live hm'], runSection_again p sec s⟩

end Sys2Proof.Machine
end

section
/-! PROOFS. Descriptor loops with a fault (R280 to R282): no room for the length, a loop longer than the section, an entry that
runs past the loop. -/

namespace Sys2Proof.Machine

theorem length_be16 (w : BitVec 16) : (be16 w).length = 2 := rfl

/-- No room for the loop's length. -/
theorem descriptorLoop_short (src : Option Pid) {loop : Bytes} (h : loop.length < 2) :
    descriptorLoop src loop 0 = [.exn (.x15 src)] :=
  if_pos (by omega)

/-- A loop is decided by its length and what is there of its entries. -/
theorem descriptorLoop_be16 (src : Option Pid) (len : BitVec 16) (loop : Bytes) :
    descriptorLoop src (be16 len ++ loop) 0 =
      if loop.length < len.toNat then [.exn (.x15 src)] else descriptorEntries src len.toNat (loop.take len.toNat) := by
  have hroom : ¬ (be16 len ++ loop).length < 0 + 2 := by rw [List.length_append, length_be16]; omega
  have hword : u16be (be16 len ++ loop) 0 = len := be16_word len
  have hdrop : (be16 len ++ loop).drop (0 + 2) = loop := rfl
  rw [descriptorLoop, if_neg hroom, hword, hdrop]
  simp only [List.length_append, length_be16, Nat.zero_add, Nat.add_lt_add_iff_left]

/-- A loop longer than the section. -/
theorem descriptorLoop_overrun (src : Option Pid) {len : BitVec 16} {loop : Bytes} (h : loop.length < len.toNat) :
    descriptorLoop src (be16 len ++ loop) 0 = [.exn (.x15 src)] := by
  rw [descriptorLoop_be16, if_pos h]

theorem descriptorEntries_broken (src : Option Pid) {cut : Bytes} (h : brokenEntry cut) {fuel : Nat}
    (hfuel : cut.length ≤ fuel) : descriptorEntries src fuel cut = [.exn (.x15 src)] := by
  obtain hone | ⟨tag, len, short, rfl, hshort⟩ := h
  · obtain ⟨b, rfl⟩ := List.length_eq_one_iff.mp hone
    obtain ⟨n, rfl⟩ := Nat.exists_eq_add_of_le' hfuel
    rfl
  · obtain ⟨n, rfl⟩ := Nat.exists_eq_add_of_le' (Nat.le_trans (Nat.le_add_left 1 _) hfuel)
    exact if_pos hshort

/-- The entries before the broken one are surfaced. -/
theorem descriptorEntries_entryBytes_broken (src : Option Pid) {ds : List (Byte × Bytes)} (hds : ∀ d ∈ ds, d.2.length ≤ 255)
    {cut : Bytes} (h : brokenEntry cut) {fuel : Nat} (hfuel : (entryBytes ds ++ cut).length ≤ fuel) :
    descriptorEntries src fuel (entryBytes ds ++ cut) = ds.map (descriptorEvent src) ++ [.exn (.x15 src)] := by
  induction ds generalizing fuel with
  | nil => exact descriptorEntries_broken src h hfuel
  | cons d rest ih =>
    obtain ⟨hd, hrest⟩ := List.forall_mem_cons.mp hds
    have hlen : (BitVec.ofNat 8 d.2.length).toNat = d.2.length := by rw [BitVec.toNat_ofNat]; omega
    rw [entryBytes_cons, List.cons_append, List.cons_append, List.append_assoc] at hfuel ⊢
    simp only [List.length_cons, List.length_append] at hfuel
    obtain ⟨n, rfl⟩ : ∃ n, fuel = n + 1 := ⟨fuel - 1, by omega⟩
    have hin : ¬ (d.2 ++ (entryBytes rest ++ cut)).length < d.2.length := by rw [List.length_append]; omega
    have htail := ih hrest (fuel := n) (by rw [List.length_append]; omega)
    simp only [descriptorEntries, hlen, if_neg hin, List.take_left, List.drop_left, htail]
    rfl

/-- An entry that runs past the loop. -/
theorem descriptorLoop_broken (src : Option Pid) {ds : List (Byte × Bytes)} (hds : ∀ d ∈ ds, d.2.length ≤ 255) {cut : Bytes}
    (h : brokenEntry cut) {len : BitVec 16} (hlen : len.toNat = (entryBytes ds ++ cut).length) (extra : Bytes) :
    descriptorLoop src (be16 len ++ (entryBytes ds ++ cut ++ extra)) 0 =
      ds.map (descriptorEvent src) ++ [.exn (.x15 src)] := by
  have hin : ¬ (entryBytes ds ++ cut ++ extra).length < len.toNat := by rw [List.length_append, hlen]; omega
  rw [descriptorLoop_be16, if_neg hin, hlen, List.take_left, descriptorEntries_entryBytes_broken src hds h le_rfl]

end Sys2Proof.Machine
end

section
/-! PROOFS. The SPLICE rows by the kind of their command (R257, R258): seven rows run a self-delimiting or an opaque command, each
by where it ends in the unit's body; the eighth is encrypted. -/

namespace Sys2Proof.Machine

/-! ## What every command does -/

theorem parsedCommand_ne_nil (p : Parse SpliceCommand) (c : SpliceCall) : parsedCommand p c ≠ [] := by
  unfold parsedCommand
  split
  · simp
  · split <;> simp

theorem opaqueCommand_ne_nil (mk : Bytes → SpliceCommand) (notice : List Event) (c : SpliceCall) :
    opaqueCommand mk notice c ≠ [] := by
  unfold opaqueCommand
  split <;> simp

/-- A command declared past the section's end (R257). -/
def Overdeclared (c : SpliceCall) : Prop := lengthOpen c.header = false ∧ c.buf.length < declaredEnd c.header

theorem Overdeclared.guard {c : SpliceCall} (h : Overdeclared c) :
    (!lengthOpen c.header && c.buf.length < declaredEnd c.header) = true := by
  obtain ⟨hclosed, hpast⟩ := h
  simp [hclosed, hpast]

theorem parsedCommand_overdeclared {c : SpliceCall} (h : Overdeclared c) (p : Parse SpliceCommand) :
    parsedCommand p c = [.exn (.x11 c.src)] :=
  if_pos h.guard

theorem opaqueCommand_overdeclared {c : SpliceCall} (h : Overdeclared c) (mk : Bytes → SpliceCommand) (notice : List Event) :
    opaqueCommand mk notice c = [.exn (.x11 c.src)] :=
  if_pos h.guard

theorem overdeclared_unitCall {u : SpliceUnit} (hopen : u.commandLength ≠ 0xFFF#12)
    (h : u.body.length < u.commandLength.toNat) (enc : BitVec 1) (ty : Byte) : Overdeclared (unitCall enc ty u) := by
  obtain ⟨pre, hpre, hbytes⟩ := exists_spliceBytes_prefix enc ty u
  refine ⟨beq_eq_false_iff_ne.mpr hopen, ?_⟩
  show (spliceBytes enc ty u).length < 14 + u.commandLength.toNat
  rw [hbytes, List.length_append]
  omega

/-! ## The rows -/

/-- The row appends these events and changes nothing else (R250). -/
def Emits (i : Instr) (es : List Event) : Prop :=
  ∀ s : State, s.mode ≠ .fatal → exec i s = .next { s with events := s.events ++ es }

theorem emits_spliceEncrypted (ty : Byte) (u : SpliceUnit) :
    Emits (.spliceEncrypted ty u) (encryptedEvents (unitCall 1#1 ty u)) :=
  fun _ hm => inUnit_runSplice hm 1#1 ty u encryptedEvents

theorem emits_spliceNull (u : SpliceUnit) :
    Emits (.spliceNull u) (parsedCommand (pureP .spliceNull) (unitCall 0#1 0x00#8 u)) :=
  fun _ hm => inUnit_runSplice hm 0#1 0x00#8 u nullEvents

theorem emits_spliceSchedule (u : SpliceUnit) :
    Emits (.spliceSchedule u) (opaqueCommand .spliceSchedule [] (unitCall 0#1 0x04#8 u)) :=
  fun _ hm => inUnit_runSplice hm 0#1 0x04#8 u scheduleEvents

theorem emits_spliceInsert (u : SpliceUnit) :
    Emits (.spliceInsert u) (parsedCommand insertP (unitCall 0#1 0x05#8 u)) :=
  fun _ hm => exec_spliceInsert hm u

theorem emits_timeSignal (u : SpliceUnit) :
    Emits (.timeSignal u) (parsedCommand timeSignalP (unitCall 0#1 0x06#8 u)) :=
  fun _ hm => inUnit_runSplice hm 0#1 0x06#8 u timeSignalEvents

theorem emits_bandwidthReservation (u : SpliceUnit) :
    Emits (.bandwidthReservation u) (parsedCommand (pureP .bandwidthReservation) (unitCall 0#1 0x07#8 u)) :=
  fun _ hm => inUnit_runSplice hm 0#1 0x07#8 u bandwidthEvents

theorem emits_privateCommand (u : SpliceUnit) :
    Emits (.privateCommand u) (opaqueCommand .privateCommand [] (unitCall 0#1 0xFF#8 u)) :=
  fun _ hm => inUnit_runSplice hm 0#1 0xFF#8 u privateEvents

theorem emits_spliceReserved (ty : Byte) (u : SpliceUnit) :
    Emits (.spliceReserved ty u) (opaqueCommand (.reserved ty) [.exn (.x12 u.srcPid ty)] (unitCall 0#1 ty u)) :=
  fun _ hm => inUnit_runSplice hm 0#1 ty u reservedEvents

/-- The seven rows of a clear section (R259). -/
def clearRows (ty : Byte) (u : SpliceUnit) : List Instr :=
  [.spliceNull u, .spliceSchedule u, .spliceInsert u, .timeSignal u, .bandwidthReservation u, .privateCommand u,
    .spliceReserved ty u]

/-- The events of some self-delimiting or opaque command on the unit. -/
def CommandEvents (u : SpliceUnit) (es : List Event) : Prop :=
  ∃ ty, (∃ p, es = parsedCommand p (unitCall 0#1 ty u)) ∨ ∃ mk notice, es = opaqueCommand mk notice (unitCall 0#1 ty u)

theorem clearRows_emit {ty : Byte} {u : SpliceUnit} {i : Instr} (hi : i ∈ clearRows ty u) :
    ∃ es, CommandEvents u es ∧ Emits i es := by
  have hparsed : ∀ {i ty p}, Emits i (parsedCommand p (unitCall 0#1 ty u)) → ∃ es, CommandEvents u es ∧ Emits i es :=
    fun h => ⟨_, ⟨_, .inl ⟨_, rfl⟩⟩, h⟩
  have hopaque : ∀ {i ty mk notice}, Emits i (opaqueCommand mk notice (unitCall 0#1 ty u)) →
      ∃ es, CommandEvents u es ∧ Emits i es := fun h => ⟨_, ⟨_, .inr ⟨_, _, rfl⟩⟩, h⟩
  simp only [clearRows, List.mem_cons, List.not_mem_nil, or_false] at hi
  obtain rfl | rfl | rfl | rfl | rfl | rfl | rfl := hi
  · exact hparsed (emits_spliceNull u)
  · exact hopaque (emits_spliceSchedule u)
  · exact hparsed (emits_spliceInsert u)
  · exact hparsed (emits_timeSignal u)
  · exact hparsed (emits_bandwidthReservation u)
  · exact hopaque (emits_privateCommand u)
  · exact hopaque (emits_spliceReserved ty u)

theorem CommandEvents.ne_nil {u : SpliceUnit} {es : List Event} (h : CommandEvents u es) : es ≠ [] := by
  obtain ⟨ty, ⟨p, rfl⟩ | ⟨mk, notice, rfl⟩⟩ := h
  · exact parsedCommand_ne_nil p _
  · exact opaqueCommand_ne_nil mk notice _

theorem CommandEvents.eq_x11 {u : SpliceUnit} {es : List Event} (h : CommandEvents u es) (hopen : u.commandLength ≠ 0xFFF#12)
    (hpast : u.body.length < u.commandLength.toNat) : es = [.exn (.x11 u.srcPid)] := by
  obtain ⟨ty, ⟨p, rfl⟩ | ⟨mk, notice, rfl⟩⟩ := h
  · exact parsedCommand_overdeclared (overdeclared_unitCall hopen hpast 0#1 ty) p
  · exact opaqueCommand_overdeclared (overdeclared_unitCall hopen hpast 0#1 ty) mk notice

/-- Settles O37: every clear row appends the events of a self-delimiting or an opaque command on its unit (`clearRows_emit`). -/
theorem spliceRowsOnlyEmit : Obligations.SpliceRowsOnlyEmit := by
  intro u ty unencrypted
  refine ⟨List.forall_mem_cons.mpr ⟨?_, fun i hi => ?_⟩, fun hopen hpast i hi => ?_⟩
  · exact ⟨_, List.cons_ne_nil _ _, emits_spliceEncrypted ty u⟩
  · obtain ⟨es, hes, hemits⟩ := clearRows_emit (ty := ty) hi
    exact ⟨es, hes.ne_nil, hemits⟩
  · obtain ⟨es, hes, hemits⟩ := clearRows_emit (ty := ty) hi
    exact hes.eq_x11 hopen hpast ▸ hemits

/-! ## Commands with an empty layout (R262, R272) -/

/-- Where a self-delimiting command ends does not depend on the row. -/
theorem commandEnd_unit (ty : Byte) (u : SpliceUnit) (layout : Bytes) :
    commandEnd (unitHeader 0#1 ty u) layout = if u.commandLength = 0xFFF#12 then layout.length else u.commandLength.toNat := by
  by_cases hopen : u.commandLength = 0xFFF#12
  · exact (commandEnd_of_open hopen layout).trans (if_pos hopen).symm
  · exact (commandEnd_of_declared hopen layout).trans (if_neg hopen).symm

/-- A body that begins with the command's layout, the declared end inside it: where the loop starts decides what follows
EV_SPLICE. -/
theorem parsedCommand_unit {p : Parse SpliceCommand} {layout tail : Bytes} {cmd : SpliceCommand} (hread : ReadsBytes p layout cmd)
    (ty : Byte) {u : SpliceUnit} (hu : u.body = layout ++ tail) {n : Nat}
    (hn : n = if u.commandLength = 0xFFF#12 then layout.length else u.commandLength.toNat) (hin : n ≤ u.body.length) :
    parsedCommand p (unitCall 0#1 ty u) =
      [.splice u.srcPid (unitHeader 0#1 ty u) cmd (annotation cmd u.pcr)] ++
        ((if !isCancel cmd && n != layout.length then [.exn (.x13 u.srcPid)] else []) ++ descriptorLoop u.srcPid u.body n) := by
  obtain ⟨pre, hpre, hbytes⟩ := exists_spliceBytes_prefix 0#1 ty u
  have hend : commandEnd (unitCall 0#1 ty u).header layout = n := (commandEnd_unit ty u layout).trans hn.symm
  have hbuf : (unitCall 0#1 ty u).buf = pre ++ (layout ++ tail) := hu ▸ hbytes
  rw [parsedCommand_reads hread hpre hbuf (by rwa [hend, ← hu]), hend, ← hu]
  rfl

/-- A command that reads nothing, with a body before the loop: X13 where the body is not empty (R277). -/
theorem parsedCommand_empty {cmd : SpliceCommand} (hcancel : isCancel cmd = false) (hann : annotatedPts cmd = none) (ty : Byte)
    {u : SpliceUnit} {filler loop : Bytes} (hu : u.body = filler ++ loop)
    (hlen : filler.length = if u.commandLength = 0xFFF#12 then 0 else u.commandLength.toNat) :
    parsedCommand (pureP cmd) (unitCall 0#1 ty u) =
      [.splice u.srcPid (unitHeader 0#1 ty u) cmd none] ++
        ((if filler = [] then [] else [.exn (.x13 u.srcPid)]) ++ descriptorLoop u.srcPid loop 0) := by
  have hin : filler.length ≤ u.body.length := by rw [hu, List.length_append]; omega
  have hloop : descriptorLoop u.srcPid u.body filler.length = descriptorLoop u.srcPid loop 0 :=
    hu ▸ descriptorLoop_append u.srcPid filler loop 0
  have hnone : annotation cmd u.pcr = none := by simp [annotation, hann]
  rw [parsedCommand_unit (readsBytes_pureP cmd) ty (List.nil_append u.body).symm hlen hin, hloop, hnone,
    hcancel]
  cases filler <;> rfl

/-- Settles O41: the two commands differ in their names alone (`parsedCommand_empty`), and what follows them is the loop. -/
theorem emptyCommandsReportAnyBody : Obligations.EmptyCommandsReportAnyBody := by
  intro filler extra ds u s hm hds hdecl notice both surfaced overrun
  have hlen : filler.length = if u.commandLength = 0xFFF#12 then 0 else u.commandLength.toNat := by
    obtain ⟨hclosed, hlen⟩ | ⟨hopen, rfl⟩ := hdecl
    · rw [if_neg hclosed, hlen]
    · rw [if_pos hopen, List.length_nil]
  have hreport : ∀ {loop after}, u.body = filler ++ loop → descriptorLoop u.srcPid loop 0 = after → both after := by
    intro loop after hu hafter
    refine ⟨(emits_spliceNull u s hm).trans ?_, (emits_bandwidthReservation u s hm).trans ?_⟩
    all_goals rw [parsedCommand_empty rfl rfl _ hu hlen, hafter, List.append_assoc, List.append_assoc]
  refine ⟨fun hfit hu => ?_, fun loop hshort hu => ?_, fun len loop hpast hu => ?_, fun len cut hbroken hcut hu => ?_⟩
  · exact hreport (hu.trans (List.append_assoc ..)) (descriptorLoop_descriptorBytes _ hfit extra)
  · exact hreport hu (descriptorLoop_short _ hshort)
  · exact hreport (hu.trans (List.append_assoc ..)) (descriptorLoop_overrun _ hpast)
  · exact hreport (hu.trans (by simp only [List.append_assoc])) (descriptorLoop_broken _ hds hbroken hcut extra)

/-! ## Opaque commands (R263, R273 to R275) -/

/-- Where an opaque command ends in the buffer: at the declared end, or two bytes before the buffer's. -/
def opaqueEnd (c : SpliceCall) : Nat := if lengthOpen c.header then max 14 (c.buf.length - 2) else declaredEnd c.header

/-- A body whose first bytes end where the command does. -/
theorem opaqueCommand_reads {c : SpliceCall} {pre raw loop : Bytes} (hpre : pre.length = 14)
    (hbuf : c.buf = pre ++ (raw ++ loop)) (hend : opaqueEnd c = 14 + raw.length) (mk : Bytes → SpliceCommand)
    (notice : List Event) :
    opaqueCommand mk notice c = [evSplice c (mk raw)] ++ (notice ++ descriptorLoop c.src loop 0) := by
  have hin : ¬ (!lengthOpen c.header && c.buf.length < declaredEnd c.header) = true := by
    have hsize : c.buf.length = 14 + (raw.length + loop.length) := by simp only [hbuf, List.length_append, hpre]
    cases hopen : lengthOpen c.header with
    | true => simp
    | false =>
      have hdeclared : declaredEnd c.header = 14 + raw.length := by simpa [opaqueEnd, hopen] using hend
      simp only [Bool.not_false, Bool.true_and, decide_eq_true_eq]
      omega
  have hraw : (c.buf.drop 14).take (14 + raw.length - 14) = raw := by
    rw [hbuf, List.drop_left' hpre, Nat.add_sub_cancel_left, List.take_left]
  have hloop : descriptorLoop c.src c.buf (14 + raw.length) = descriptorLoop c.src loop 0 := by
    rw [hbuf, ← hpre, descriptorLoop_append]
    exact descriptorLoop_append c.src raw loop 0
  rw [opaqueCommand, if_neg hin]
  show [evSplice c (mk ((c.buf.drop 14).take (opaqueEnd c - 14)))] ++ notice ++ descriptorLoop c.src c.buf (opaqueEnd c) = _
  rw [hend, hraw, hloop, List.append_assoc]

/-- How many bytes of the body an opaque command has: the declared ones, or all but the last two. -/
def opaqueLength (u : SpliceUnit) : Nat :=
  if u.commandLength = 0xFFF#12 then u.body.length - 2 else u.commandLength.toNat

theorem opaqueEnd_unitCall (enc : BitVec 1) (ty : Byte) (u : SpliceUnit) :
    opaqueEnd (unitCall enc ty u) = 14 + opaqueLength u := by
  obtain ⟨pre, hpre, hbytes⟩ := exists_spliceBytes_prefix enc ty u
  have hsize : (unitCall enc ty u).buf.length = 14 + u.body.length := by
    rw [← hpre, ← List.length_append, ← hbytes]
    rfl
  by_cases hopen : u.commandLength = 0xFFF#12
  · have hlen : lengthOpen (unitCall enc ty u).header = true := beq_iff_eq.mpr hopen
    rw [opaqueEnd, if_pos hlen, hsize, opaqueLength, if_pos hopen]
    omega
  · have hlen : lengthOpen (unitCall enc ty u).header = false := beq_eq_false_iff_ne.mpr hopen
    rw [opaqueEnd, hlen, opaqueLength, if_neg hopen]
    rfl

theorem opaqueCommand_unit (mk : Bytes → SpliceCommand) (notice : List Event) (ty : Byte) {u : SpliceUnit} {raw loop : Bytes}
    (hu : u.body = raw ++ loop) (hlen : opaqueLength u = raw.length) :
    opaqueCommand mk notice (unitCall 0#1 ty u) =
      [.splice u.srcPid (unitHeader 0#1 ty u) (mk raw) (annotation (mk raw) u.pcr)] ++
        (notice ++ descriptorLoop u.srcPid loop 0) := by
  obtain ⟨pre, hpre, hbytes⟩ := exists_spliceBytes_prefix 0#1 ty u
  have hbuf : (unitCall 0#1 ty u).buf = pre ++ (raw ++ loop) := hu ▸ hbytes
  exact opaqueCommand_reads hpre hbuf (hlen ▸ opaqueEnd_unitCall 0#1 ty u) mk notice

/-- An encrypted section's bytes after the header are its unit's body (R256). -/
theorem encryptedEvents_unit (ty : Byte) (u : SpliceUnit) : encryptedEvents (unitCall 1#1 ty u) =
    [.splice u.srcPid (unitHeader 1#1 ty u) (.encrypted u.body) none] := by
  obtain ⟨pre, hpre, hbytes⟩ := exists_spliceBytes_prefix 1#1 ty u
  have hbody : (unitCall 1#1 ty u).buf.drop 14 = u.body := (congrArg (List.drop 14) hbytes).trans (List.drop_left' hpre)
  rw [encryptedEvents, hbody]
  rfl

theorem append_toNat_pos {a b : Byte} (h : ¬ (a = 0#8 ∧ b = 0#8)) : 0 < (a ++ b).toNat := by
  rw [toNat_append_mul]
  refine Nat.pos_of_ne_zero fun hzero => h ⟨BitVec.eq_of_toNat_eq ?_, BitVec.eq_of_toNat_eq ?_⟩
  all_goals
    simp only [BitVec.toNat_ofNat]
    omega

/-- Settles O42: each opaque row reports the bytes up to where its command ends (`opaqueCommand_unit`), and what follows is the
loop. -/
theorem opaqueCommandsKeepTheirBody : Obligations.OpaqueCommandsKeepTheirBody := by
  intro raw extra ds tag u s hm rows surfaced overrun
  have hreport : ∀ {raw loop after}, opaqueLength u = raw.length → u.body = raw ++ loop →
      descriptorLoop u.srcPid loop 0 = after → rows raw after := by
    intro raw loop after hlen hu hafter
    refine ⟨(emits_spliceSchedule u s hm).trans ?_, (emits_privateCommand u s hm).trans ?_,
      (emits_spliceReserved tag u s hm).trans ?_⟩
    all_goals
      rw [opaqueCommand_unit _ _ _ hu hlen, hafter, List.append_assoc]
      rfl
  refine ⟨encryptedEvents_unit tag u ▸ emits_spliceEncrypted tag u s hm, fun hclosed hraw => ?_, fun hopen => ?_⟩
  · have hlen : opaqueLength u = raw.length := (if_neg hclosed).trans hraw
    refine ⟨fun hfit hu => ?_, fun loop hshort hu => ?_, fun len loop hpast hu => ?_, fun len cut hds hbroken hcut hu => ?_⟩
    · exact hreport hlen (hu.trans (List.append_assoc ..)) (descriptorLoop_descriptorBytes _ hfit extra)
    · exact hreport hlen hu (descriptorLoop_short _ hshort)
    · exact hreport hlen (hu.trans (List.append_assoc ..)) (descriptorLoop_overrun _ hpast)
    · exact hreport hlen (hu.trans (by simp only [List.append_assoc])) (descriptorLoop_broken _ hds hbroken hcut extra)
  · have hlen : opaqueLength u = u.body.length - 2 := if_pos hopen
    have htwo : ∀ {a b : Byte}, u.body = raw ++ [a, b] → opaqueLength u = raw.length := fun hu => by
      rw [hlen, hu, List.length_append]
      rfl
    refine ⟨fun hu => hreport (htwo hu) hu rfl, fun a b hab hu => hreport (htwo hu) hu ?_, fun hshort => ?_⟩
    · rw [← be16_append a b, ← List.append_nil (be16 _)]
      exact descriptorLoop_overrun _ (append_toNat_pos hab)
    · exact hreport (by rw [hlen, List.length_nil]; omega) (List.nil_append _).symm (descriptorLoop_short _ hshort)

/-! ## time_signal (R271, R283, R284) -/

theorem reads_timeSignal (res : BitVec 7) (t : Option (BitVec 33)) :
    ReadsBytes timeSignalP (timeBytes res (.timed t)) (.timeSignal (.timed t)) :=
  ReadsBytes.map (p := spliceTimeP) (reads_time res (.timed t)) SpliceCommand.timeSignal

/-- A time_signal is annotated as a splice_insert in program mode with its time (R284). -/
theorem annotates_timeSignal (pcr : Option PcrEntry) (t : SpliceTime) :
    annotates pcr (.program t) (annotation (.timeSignal t) pcr) := by
  have hinsert := annotates_annotation pcr 0#32
    { networkIndicator := .inward, spliceMode := .program t, duration := none, uniqueProgramId := 0#16, availNum := 0#8
      availsExpected := 0#8 }
  cases t with
  | immediate => exact hinsert
  | timed pts => exact hinsert

/-- Settles O43: the body is read as its time (`reads_timeSignal`), and what follows EV_SPLICE is decided by where the command is
declared to end (`parsedCommand_unit`). -/
theorem timeSignalIsAnnotatedByTheSignedDistance : Obligations.TimeSignalIsAnnotatedByTheSignedDistance := by
  intro res pts ds rest u s hm time htime layout declared reported
  have hread : ReadsBytes timeSignalP layout (.timeSignal time) := by
    simp only [List.mem_cons, List.not_mem_nil, or_false] at htime
    obtain rfl | rfl := htime
    · exact reads_timeSignal res (some pts)
    · exact reads_timeSignal res none
  have hreport : ∀ {tail n after}, u.body = layout ++ tail →
      n = (if u.commandLength = 0xFFF#12 then layout.length else declared) → n ≤ u.body.length →
      (if n != layout.length then [.exn (.x13 u.srcPid)] else []) ++ descriptorLoop u.srcPid u.body n = after →
      reported (annotation (.timeSignal time) u.pcr) after := by
    intro tail n after hu hn hin hafter
    refine (emits_timeSignal u s hm).trans ?_
    rw [parsedCommand_unit hread _ hu hn hin, isCancel, Bool.not_false, Bool.true_and, hafter, List.append_assoc]
  refine ⟨fun hfit hu hend => ⟨_, annotates_timeSignal u.pcr time, ?_⟩,
    fun hu hclosed hne hin => ⟨_, annotates_timeSignal u.pcr time, ?_⟩, fun n hn hu => ?_⟩
  · rw [List.append_assoc] at hu
    refine hreport (n := layout.length) hu ?_ (by rw [hu, List.length_append]; omega) ?_
    · split
      · rfl
      · next hclosed => exact (hend.resolve_right hclosed).symm
    · have hloop := descriptorLoop_append u.srcPid layout (descriptorBytes ds ++ rest) 0
      rw [Nat.add_zero, descriptorLoop_descriptorBytes u.srcPid hfit] at hloop
      rw [bne_self_eq_false, hu, hloop]
      rfl
  · refine hreport hu (if_neg hclosed).symm hin ?_
    rw [bne_iff_ne.mpr hne]
    rfl
  · obtain ⟨pre, hpre, hbytes⟩ := exists_spliceBytes_prefix 0#1 0x06#8 u
    have hcut : parsedCommand timeSignalP (unitCall 0#1 0x06#8 u) = [.exn (.x11 u.srcPid)] :=
      parsedCommand_cut hread hn hpre (hu ▸ hbytes)
    exact hcut ▸ emits_timeSignal u s hm

end Sys2Proof.Machine
end

section
/-! PROOFS. The main port (R301 to R306, R366): which datagrams have a bad RTP header, what DGRAM.MAIN comes to where the size
check passes, and what RTP.DELIVER reports before it pushes. -/

namespace Sys2Proof.Machine

/-! ## The RTP header (R115, R302, R303) -/

/-- The first byte of a valid header by its fields: version 2, no padding, no extension, no CSRC (R115). -/
theorem eq_rtpVersion_iff (b : Byte) :
    b = 0x80#8 ↔ b.extractLsb' 6 2 = 2#2 ∧ b.extractLsb' 5 1 = 0#1 ∧ b.extractLsb' 4 1 = 0#1 ∧ b.extractLsb' 0 4 = 0#4 := by
  refine ⟨by rintro rfl; decide, fun ⟨hversion, hpadding, hextension, hcsrc⟩ => BitVec.eq_of_toNat_eq ?_⟩
  have hversion := congrArg BitVec.toNat hversion
  have hpadding := congrArg BitVec.toNat hpadding
  have hextension := congrArg BitVec.toNat hextension
  have hcsrc := congrArg BitVec.toNat hcsrc
  simp only [toNat_extractLsb'_digits, BitVec.toNat_ofNat] at *
  omega

/-- R303: under 12 bytes, or a first byte that is not the one of a valid header. -/
theorem rtpBad_iff {g : Bytes} :
    rtpBad g = true ↔ g.length < 12 ∨ ∃ b, g.head? = some b ∧
      (b.extractLsb' 6 2 ≠ 2#2 ∨ b.extractLsb' 5 1 ≠ 0#1 ∨ b.extractLsb' 4 1 ≠ 0#1 ∨ b.extractLsb' 0 4 ≠ 0#4) := by
  have hfirst : ∀ b : Byte, b ≠ 0x80#8 ↔
      (b.extractLsb' 6 2 ≠ 2#2 ∨ b.extractLsb' 5 1 ≠ 0#1 ∨ b.extractLsb' 4 1 ≠ 0#1 ∨ b.extractLsb' 0 4 ≠ 0#4) := fun b => by
    rw [ne_eq, eq_rtpVersion_iff, not_and_or, not_and_or, not_and_or]
  cases g with
  | nil => simp [rtpBad]
  | cons b rest =>
    simp only [rtpBad, Bool.or_eq_true, decide_eq_true_eq, bne_iff_ne, List.headD_cons, List.head?_cons, Option.some.injEq,
      exists_eq_left', hfirst]

section
variable {g : Bytes} (hbad : rtpBad g = true) (s : State)
include hbad

theorem mainRtp_of_rtpBad : mainRtp g s = raise (.x16 .main) s := by
  rw [mainRtp, parseRtp_eq_none_iff.mpr hbad]

theorem mainRtpFec_of_rtpBad : mainRtpFec g s = raise (.x16 .main) s := by
  rw [mainRtpFec, parseRtp_eq_none_iff.mpr hbad]

end

theorem mainRtp_rtpBytes (h : RtpHeader) (payload : Bytes) (s : State) :
    mainRtp (rtpBytes h ++ payload) s = rtpDeliver h.seq payload s := by
  rw [mainRtp, parseRtp_rtpBytes]

theorem mainRtpFec_rtpBytes (h : RtpHeader) (payload : Bytes) (s : State) :
    mainRtpFec (rtpBytes h ++ payload) s = fecMedia h.seq payload s := by
  rw [mainRtpFec, parseRtp_rtpBytes]

/-! ## DGRAM.MAIN (R300, R305, R366) -/

theorem rtpOn_iff (s : State) : rtpOn s = true ↔ s.cfg.extractLsb' 3 1 = 1#1 := getLsbD_eq_true_iff s.cfg 3

/-- A datagram that passes the size check goes to the row that CFG selects. -/
theorem exec_dgramMain {s : State} (hnet : s.mode = .net) {g : Bytes}
    (hsize : fecOn s = false ∨ g.length ≤ s.params.fecSlotBytes) : exec (.dgramMain g) s = .next (mainDgram g s) := by
  have hfits : sizeChecked .main g (mainDgram g) s = mainDgram g s := by
    obtain hoff | hlen := hsize
    · simp [sizeChecked, hoff]
    · exact sizeChecked_fits hlen _
  show execDgramMain g s = _
  rw [execDgramMain, hnet, beq_self_eq_true, command_legal (by simp [hnet]), hfits]

theorem mainDgram_raw {s : State} (hrtp : rtpOn s = false) (g : Bytes) : mainDgram g s = mainRaw g s := by
  simp [mainDgram, hrtp]

theorem mainDgram_rtp {s : State} (hrtp : rtpOn s = true) (hfec : fecOn s = false) (g : Bytes) :
    mainDgram g s = mainRtp g s := by simp [mainDgram, hrtp, hfec]

theorem mainDgram_fec {s : State} (hrtp : rtpOn s = true) (hfec : fecOn s = true) (g : Bytes) :
    mainDgram g s = mainRtpFec g s := by simp [mainDgram, hrtp, hfec]

section
variable {s : State} (hm : s.mode ≠ .fatal) (g : Bytes)
include hm

theorem exec_mainRaw : exec (.mainRaw g) s = .next (mainRaw g s) := inUnit_live hm _

theorem exec_mainRtp : exec (.mainRtp g) s = .next (mainRtp g s) := inUnit_live hm _

theorem exec_mainRtpFec : exec (.mainRtpFec g) s = .next (mainRtpFec g s) := inUnit_live hm _

theorem exec_rtpV2 (port : Port) (h : RtpHeader) : exec (.rtpV2 port h g) s = .next { s with result := .rtp h.seq g } :=
  inUnit_live hm fun s => { s with result := .rtp h.seq g }

end

/-- Settles O53: with RTP both rows that CFG can select refuse the header (`rtpBad_iff`), whatever the FEC bit. -/
theorem malformedRtpOnTheMainPortIsDropped : Obligations.MalformedRtpOnTheMainPortIsDropped := by
  intro g s hm dropped bad
  have hraise : .next (raise (.x16 .main) s) = dropped := congrArg _ (raise_recoverable rfl s)
  refine ⟨fun hb => ?_, inUnit_raise hm rfl, fun port h payload => exec_rtpV2 hm payload port h⟩
  have hbad := rtpBad_iff.mpr hb
  have hrtp := mainRtp_of_rtpBad hbad s
  have hfec := mainRtpFec_of_rtpBad hbad s
  refine ⟨?_, ?_, fun hnet hcfg hsize => ?_⟩
  · rw [exec_mainRtp hm, hrtp, hraise]
  · rw [exec_mainRtpFec hm, hfec, hraise]
  · have hon := (rtpOn_iff s).mpr hcfg
    have hsize' : fecOn s = false ∨ g.length ≤ s.params.fecSlotBytes := hsize.imp_left fun hoff => by
      rw [← Bool.not_eq_true, fecOn_iff, hoff]
      decide
    rw [exec_dgramMain hnet hsize', ← hraise]
    cases hf : fecOn s with
    | false => rw [mainDgram_rtp hon hf, hrtp]
    | true => rw [mainDgram_fec hon hf, hfec]

/-! ## RTP.DELIVER (R306) -/

/-- What RTP.DELIVER reports: the number expected and the number received, where the two differ. -/
def continuityNotice (last : Option SeqNum) (seq : SeqNum) : List Event :=
  match last with
  | none => []
  | some p => if seq.toNat = (p.toNat + 1) % 65536 then [] else [.exn (.x17 (BitVec.ofNat 16 ((p.toNat + 1) % 65536)) seq)]

/-- The successor of a sequence number as a number modulo 2^16 (R18). -/
theorem succ_eq_ofNat (p : SeqNum) : p + 1#16 = BitVec.ofNat 16 ((p.toNat + 1) % 65536) := by bv_omega

theorem eq_succ_iff {p q : SeqNum} : q = p + 1#16 ↔ q.toNat = (p.toNat + 1) % 65536 := by
  rw [← BitVec.toNat_inj, BitVec.toNat_add]
  rfl

/-- RTP.DELIVER is raw delivery of the payload once the number is recorded and the notice given. -/
theorem rtpDeliver_eq (q : SeqNum) (p : Bytes) (s : State) :
    rtpDeliver q p s =
      mainRaw p { s with events := s.events ++ continuityNotice s.rtpLast q, rtpLast := some q } := by
  unfold rtpDeliver continuityNotice
  cases s.rtpLast with
  | none =>
    rw [List.append_nil]
    rfl
  | some l =>
    simp only [eq_succ_iff]
    split
    · rw [List.append_nil]
      rfl
    · rw [raise_recoverable rfl, succ_eq_ofNat]
      rfl

/-- Settles O52: MAIN.RTP is RTP.DELIVER, which is raw delivery after the notice (`rtpDeliver_eq`). -/
theorem rtpContinuityIsReportedThenPushed : Obligations.RtpContinuityIsReportedThenPushed := by
  intro h payload s hm notice
  have hdeliver : mainRtp (rtpBytes h ++ payload) s =
      mainRaw payload { s with events := s.events ++ notice, rtpLast := some h.seq } :=
    (mainRtp_rtpBytes h payload s).trans (rtpDeliver_eq h.seq payload s)
  refine ⟨_, exec_mainRaw (s := { s with events := s.events ++ notice, rtpLast := some h.seq }) hm payload,
    by rw [exec_mainRtp hm, hdeliver], fun hnet hcfg => ?_⟩
  have hfec : fecOn s = false := by rw [fecOn, hcfg]; decide
  have hrtp : rtpOn s = true := by rw [rtpOn, hcfg]; decide
  rw [exec_dgramMain hnet (.inl hfec), mainDgram_rtp hrtp hfec, hdeliver]

end Sys2Proof.Machine
end

section
/-! PROOFS. Records that a packet's intake makes expire (R326, R331): they stay behind the window while F_HI moves on, so RECOVER does
the same without them, and what it makes of the others is what it makes of all. -/

namespace Sys2Proof.Machine

/-! ## Scans with and without expired records -/

section
variable {p : Config.Params} {hi : SeqNum} {store : List (Nat × Bytes)}

theorem scan_cons_of_dead {r : ParityRec} (h : dead p hi r = true) (rest : List ParityRec) :
    scan p hi store (r :: rest) = scan p hi store rest := by rw [scan, if_pos h]

/-- A scan passes over the records that are dead. -/
theorem scan_filter {live : ParityRec → Bool} {rs : List ParityRec} (h : ∀ r ∈ rs, live r = false → dead p hi r = true) :
    scan p hi store (rs.filter live) =
      { scan p hi store rs with keep := (scan p hi store rs).keep.filter live } := by
  induction rs with
  | nil => rfl
  | cons r rest ih =>
    obtain ⟨hr, hrest⟩ := List.forall_mem_cons.mp h
    have ih := ih hrest
    cases hlive : live r with
    | false => rw [List.filter_cons_of_neg (by simp [hlive]), ih, scan_cons_of_dead (hr hlive)]
    | true =>
      rw [List.filter_cons_of_pos hlive, scan, scan, ih]
      split
      · rfl
      split
      · rfl
      · split <;> rfl
      · simp [Scan.keeping, hlive]

/-- A scan that rebuilds nothing keeps no dead record. -/
theorem dead_of_mem_keep {rs : List ParityRec} (hhit : (scan p hi store rs).hit = none) {r : ParityRec}
    (hr : r ∈ (scan p hi store rs).keep) : dead p hi r = false := by
  fun_induction scan p hi store rs with
  | case1 => cases hr
  | case2 _ _ _ ih | case3 _ _ _ _ ih | case4 _ _ _ _ _ _ ih => exact ih hhit hr
  | case5 => cases hhit
  | case6 x _ hx _ _ _ _ ih =>
    obtain rfl | hr := List.mem_cons.mp hr
    · exact Bool.eq_false_iff.mpr hx
    · exact ih hhit hr

/-- What it keeps is kept without the expired records too. -/
theorem filter_keep_of_no_hit {live : ParityRec → Bool} {rs : List ParityRec}
    (h : ∀ r ∈ rs, live r = false → dead p hi r = true) (hhit : (scan p hi store rs).hit = none) :
    (scan p hi store rs).keep.filter live = (scan p hi store rs).keep :=
  List.filter_eq_self.mpr fun r hr => by
    by_contra hlive
    have hdead := h r ((scan_spec p hi store rs).1.subset hr) (by simpa using hlive)
    rw [dead_of_mem_keep hhit hr] at hdead
    cases hdead

/-- What a scan rebuilds is a member of a record. -/
theorem mem_recGroup_of_hit {rs : List ParityRec} {m : SeqNum} {pay : Bytes}
    (hhit : (scan p hi store rs).hit = some (m, pay)) : ∃ r ∈ rs, m ∈ recGroup r := by
  fun_induction scan p hi store rs with
  | case1 => cases hhit
  | case2 _ _ _ ih | case3 _ _ _ _ ih | case4 _ _ _ _ _ _ ih | case6 _ _ _ _ _ _ _ ih =>
    obtain ⟨r, hr, hm⟩ := ih hhit
    exact ⟨r, List.mem_cons_of_mem _ hr, hm⟩
  | case5 r _ _ _ hmissing =>
    cases hhit
    exact ⟨r, List.mem_cons_self, (mem_missing_iff.mp (hmissing ▸ List.mem_singleton_self m)).1⟩

end

/-! ## One pass beside other records (R324, R330) -/

/-- The state with other records waiting. -/
def withPar (rs : List ParityRec) (s : State) : State := { s with fPar := rs }

theorem fecStore_withPar (h m : SeqNum) (p : Bytes) (rs : List ParityRec) (s : State) :
    (fecStore h m p (withPar rs s)).1 = withPar rs (fecStore h m p s).1 := by
  have hread : (withPar rs s).fStore = s.fStore := rfl
  unfold fecStore
  rw [hread]
  split
  · rfl
  · rfl

/-- FEC.INSERT does not look at the records. -/
theorem fecInsert_withPar (m : SeqNum) (p : Bytes) (rs : List ParityRec) (s : State) :
    (fecInsert m p (withPar rs s)).1 = withPar rs (fecInsert m p s).1 := by
  have hhead : (withPar rs s).fHi = s.fHi := rfl
  have hparams : (withPar rs s).params = s.params := rfl
  unfold fecInsert
  rw [hhead, hparams]
  split
  · exact fecStore_withPar m m p rs { s with fHi := some m, fNext := some m }
  · split
    · exact fecStore_withPar m m p rs { s with fHi := some m }
    · split
      · exact fecStore_withPar _ m p rs s
      · rfl

/-- F_HI stays or goes to the newer number. -/
theorem fecInsert_fHi {s : State} {h : SeqNum} (hhi : s.fHi = some h) (m : SeqNum) (p : Bytes) :
    (fecInsert m p s).1.fHi = some (if newer h m then m else h) := by
  unfold fecInsert
  rw [hhi]
  dsimp only
  split
  · rw [fecStore_spec]
  · split
    · rw [fecStore_spec, hhi]
    · exact hhi

/-! ## Expired records stay expired -/

section
variable {s : State} {hi k h : SeqNum} (hretain : 1 ≤ s.params.fecRetain)
  (hfrom : dist hi k + s.params.fecRetain ≤ 32768)
include hretain hfrom

/-- A near member of a live record is near the F_HI that has moved on. -/
theorem near_of_moved {o : SeqNum} (hnear : Near s hi o) (hlive : ¬ leftWindow k o s) : Near s k o := by
  obtain hahead | hin := taken_of_near hretain hfrom hnear hlive
  · have hreach := (reach_of_near hretain hfrom hnear hahead).2
    have hfore := dist_from hi k o
    simp only [Near]
    omega
  · exact .inl hin

/-- A record behind the window stays behind it as F_HI moves on. -/
theorem dead_of_moved (hreach : dist hi h + s.params.fecRetain ≤ 32768) (hadv : h = k ∨ (0 < dist k h ∧ dist k h < 32768))
    {r : ParityRec} (hnear : ∀ o ∈ recGroup r, Near s hi o) (hdead : dead s.params k r = true) :
    dead s.params h r = true := by
  obtain ⟨o, ho, hout, hbehind⟩ := dead_iff.mp hdead
  obtain ⟨hback, hbehind'⟩ := falls_back hretain hreach hfrom (hnear o ho) hbehind hadv
  exact dead_iff.mpr ⟨o, ho, hout.trans hback, hbehind'⟩

end

/-- Where F_HI goes when a near number comes in. -/
theorem reach_of_insert {s : State} {hi h m : SeqNum} (hretain : 1 ≤ s.params.fecRetain)
    (hfrom : dist hi h + s.params.fecRetain ≤ 32768) (hnear : Near s hi m) :
    ∃ h', h' = (if newer h m then m else h) ∧ dist hi h' + s.params.fecRetain ≤ 32768 ∧
      (h' = h ∨ (0 < dist h h' ∧ dist h h' < 32768)) := by
  refine ⟨_, rfl, ?_⟩
  split
  · next hn => exact ⟨(reach_of_near hretain hfrom hnear (newer_iff.mp hn)).2, .inr (newer_iff.mp hn)⟩
  · exact ⟨hfrom, .inl rfl⟩

/-! ## RECOVER with and without expired records -/

/-- The state after a scan, before the packet it has rebuilt comes in (R330). -/
def afterScan (r : Scan) (s : State) : State := emitAll (r.failed.map fun q => .exn (.x24 q)) (withPar r.keep s)

section
variable {s : State} {h : SeqNum} (hhi : s.fHi = some h) (n : Nat)
include hhi

theorem recover_of_scan_none (hhit : (scan s.params h s.fStore s.fPar).hit = none) :
    recover (n + 1) s = afterScan (scan s.params h s.fStore s.fPar) s := by
  simp only [recover, hhi, hhit, afterScan, withPar]

theorem recover_of_scan_some {m : SeqNum} {pay : Bytes} (hhit : (scan s.params h s.fStore s.fPar).hit = some (m, pay)) :
    recover (n + 1) s = recover n (fecInsert m pay (afterScan (scan s.params h s.fStore s.fPar) s)).1 := by
  simp only [recover, hhi, hhit, afterScan, withPar]

end

/-- RECOVER does the same without the records that are behind the window. -/
theorem recover_filter (n : Nat) {live : ParityRec → Bool} {hi h : SeqNum} {s : State} (hhi : s.fHi = some h)
    (hretain : 1 ≤ s.params.fecRetain) (hfrom : dist hi h + s.params.fecRetain ≤ 32768)
    (hnear : ∀ r ∈ s.fPar, ∀ o ∈ recGroup r, Near s hi o)
    (hdead : ∀ r ∈ s.fPar, live r = false → dead s.params h r = true) (hn : s.fPar.length ≤ n) :
    recover n (withPar (s.fPar.filter live) s) = recover n s := by
  induction n generalizing h s with
  | zero =>
    have hnil : s.fPar = [] := List.eq_nil_of_length_eq_zero (Nat.le_zero.mp hn)
    rw [hnil, List.filter_nil, withPar, ← hnil]
  | succ n ih =>
    obtain ⟨hsub, hless⟩ := scan_spec s.params h s.fStore s.fPar
    have hscan := scan_filter (store := s.fStore) hdead
    have hafter : afterScan (scan s.params h s.fStore (s.fPar.filter live)) (withPar (s.fPar.filter live) s) =
        withPar ((scan s.params h s.fStore s.fPar).keep.filter live) (afterScan (scan s.params h s.fStore s.fPar) s) :=
      congrArg (afterScan · s) hscan
    cases hhit : (scan s.params h s.fStore s.fPar).hit with
    | none =>
      calc recover (n + 1) (withPar (s.fPar.filter live) s)
        _ = afterScan (scan s.params h s.fStore (s.fPar.filter live)) (withPar (s.fPar.filter live) s) :=
          recover_of_scan_none (s := withPar (s.fPar.filter live) s) hhi n ((congrArg Scan.hit hscan).trans hhit)
        _ = afterScan (scan s.params h s.fStore s.fPar) s := by
          rw [hafter, filter_keep_of_no_hit hdead hhit]
          rfl
        _ = recover (n + 1) s := (recover_of_scan_none hhi n hhit).symm
    | some found =>
      obtain ⟨m, pay⟩ := found
      obtain ⟨x, hx, hm⟩ := mem_recGroup_of_hit hhit
      obtain ⟨h', hh', hreach, hadv⟩ := reach_of_insert hretain hfrom (hnear x hx m hm)
      have hlt := hless (by simp [hhit])
      have hst := fecInsert_spec m pay (afterScan (scan s.params h s.fStore s.fPar) s)
      have hhead := fecInsert_fHi (s := afterScan (scan s.params h s.fStore s.fPar) s) hhi m pay
      have hpar := congrArg State.fPar hst.rest
      have hparams := congrArg State.params hst.rest
      calc recover (n + 1) (withPar (s.fPar.filter live) s)
        _ = recover n (fecInsert m pay (afterScan (scan s.params h s.fStore (s.fPar.filter live))
              (withPar (s.fPar.filter live) s))).1 :=
          recover_of_scan_some (s := withPar (s.fPar.filter live) s) hhi n ((congrArg Scan.hit hscan).trans hhit)
        _ = recover n (withPar ((scan s.params h s.fStore s.fPar).keep.filter live)
              (fecInsert m pay (afterScan (scan s.params h s.fStore s.fPar) s)).1) := by
          rw [hafter, fecInsert_withPar]
        _ = recover n (fecInsert m pay (afterScan (scan s.params h s.fStore s.fPar) s)).1 := ?_
        _ = recover (n + 1) s := (recover_of_scan_some hhi n hhit).symm
      generalize (fecInsert m pay (afterScan (scan s.params h s.fStore s.fPar) s)).1 = σ at hhead hpar hparams
      replace hpar : σ.fPar = (scan s.params h s.fStore s.fPar).keep := hpar
      replace hparams : σ.params = s.params := hparams
      rw [← hh'] at hhead
      rw [← hpar] at hsub hlt ⊢
      refine ih hhead (hparams ▸ hretain) (hparams ▸ hreach) (fun r hr o ho => ?_) (fun r hr hl => ?_) (by omega)
      · have ho' := hnear r (hsub.subset hr) o ho
        rwa [Near, ← hparams] at ho'
      · rw [hparams]
        exact dead_of_moved hretain hfrom hreach hadv (hnear r (hsub.subset hr)) (hdead r (hsub.subset hr) hl)

/-! ## What RECOVER makes of all the records -/

/-- No member of the record has left the window (R331). -/
def inWindow (p : Config.Params) (hi : SeqNum) (r : ParityRec) : Bool := !dead p hi r

theorem inWindow_eq_false {p : Config.Params} {hi : SeqNum} {r : ParityRec} :
    inWindow p hi r = false ↔ dead p hi r = true := by simp [inWindow]

theorem not_leftWindow_of_inWindow {s : State} {hi o : SeqNum} {r : ParityRec} (hr : inWindow s.params hi r = true)
    (ho : o ∈ recGroup r) : ¬ leftWindow hi o s := fun hleft => by
  rw [inWindow, dead_iff.mpr ⟨o, ho, hleft⟩] at hr
  cases hr

theorem fecInv_withPar {s : State} (hs : FecInv s) {rs : List ParityRec} (h : rs.Sublist s.fPar) : FecInv (withPar rs s) :=
  (fecInv_of_sublist hs h []).of_sameFec ⟨rfl, rfl, rfl, rfl, rfl⟩

section
variable {orig : SeqNum → Bytes} {hi k : SeqNum} {s : State} (hs : FecInv s) (hhi : s.fHi = some k)
  (hfrom : dist hi k + s.params.fecRetain ≤ 32768) (hnear : ∀ r ∈ s.fPar, ∀ o ∈ recGroup r, Near s hi o)
include hs hfrom hnear

/-- Where RECOVER leaves F_HI: the passes move it to near numbers only. -/
theorem reach_of_recoversFrom {rs : List ParityRec} {t : State} {h : SeqNum} (hrs : ∀ r ∈ rs, r ∈ s.fPar)
    (hhead : h = k ∨ (0 < dist k h ∧ dist k h < 32768 ∧ stored s h = false ∧ stored t h = true))
    (hentries : ∀ (o : SeqNum) p, tableGet o.toNat t.fStore = some p → dist o h < s.params.fecRetain ∧
      (tableGet o.toNat s.fStore = some p ∨ (stored s o = false ∧ p = orig o ∧ ∃ r ∈ rs, r ∉ t.fPar ∧ o ∈ recGroup r))) :
    dist hi h + s.params.fecRetain ≤ 32768 ∧ (h = k ∨ (0 < dist k h ∧ dist k h < 32768)) := by
  obtain rfl | ⟨hpos, hhalf, hnew, hst⟩ := hhead
  · exact ⟨hfrom, .inl rfl⟩
  obtain ⟨p, hp⟩ := Option.isSome_iff_exists.mp hst
  obtain ⟨-, hold | ⟨-, -, r, hr, -, ho⟩⟩ := hentries h p hp
  · rw [stored_of_get hold] at hnew
    cases hnew
  · have hretain := hs.1.2.1
    exact ⟨(reach_of_near hretain hfrom (hnear r (hrs r hr) h ho) ⟨hpos, hhalf⟩).2, .inr ⟨hpos, hhalf⟩⟩

include hhi

/-- RECOVER with F_HI ahead of `hi`, near which every member stands: the records that are behind the window go unused. -/
theorem recover_recoversFrom_of_moved (horig : fecFrom orig s.fPar s) :
    recoversFrom orig k s.fPar s (recover s.fPar.length s) := by
  obtain ⟨hvalid, -, -, hwin, -⟩ := id hs
  obtain ⟨-, hretain, -⟩ := id hvalid
  obtain ⟨hstored, hparity⟩ := horig
  have hmem : ∀ r ∈ s.fPar.filter (inWindow s.params k), r ∈ s.fPar ∧ inWindow s.params k r = true := fun _ =>
    List.mem_filter.mp
  have hinv := fecInv_withPar hs (List.filter_sublist (p := inWindow s.params k))
  have hrec := Recovering.recovers (s := withPar (s.fPar.filter (inWindow s.params k)) s) hvalid (hwin k hhi)
    (fun r hr o ho => near_of_moved hretain hfrom (hnear r (hmem r hr).1 o ho)
      (not_leftWindow_of_inWindow (hmem r hr).2 ho))
    ⟨hstored, fun r hr => hparity r (hmem r hr).1⟩ (fun r hr => offset_ne_zero hinv hr) s.fPar.length
    (recovering_start orig hinv hhi) (List.length_filter_le _ s.fPar)
  rw [recover_filter _ hhi hretain hfrom hnear (fun _ _ => inWindow_eq_false.mp) le_rfl] at hrec
  obtain ⟨h, hframe, hhead, hentries, hkept, hsub, hleft, hgone⟩ := hrec
  obtain ⟨hreach, hadv⟩ := reach_of_recoversFrom hs hfrom hnear (fun r hr => (hmem r hr).1) hhead hentries
  refine ⟨h, hframe, hhead, fun o p ho => ?_, hkept, hsub.trans List.filter_sublist, hleft, fun r hr hn => ?_⟩
  · refine (hentries o p ho).imp_right (Or.imp_right ?_)
    rintro ⟨hnew, hp, r, hr, hrest⟩
    exact ⟨hnew, hp, r, (hmem r hr).1, hrest⟩
  · cases hlive : inWindow s.params k r with
    | true => exact hgone r (List.mem_filter.mpr ⟨hr, hlive⟩) hn
    | false =>
      exact .inl (dead_iff.mp (dead_of_moved hretain hfrom hreach hadv (hnear r hr) (inWindow_eq_false.mp hlive)))

end

end Sys2Proof.Machine
end

section
/-! PROOFS. FEC.MEDIA (R323, R326): the first packet starts delivery and is delivered at once; each later one enters the window, what
it lets rebuild is rebuilt, and delivery goes on. -/

namespace Sys2Proof.Machine

/-! ## A packet that is stored (R323, R329) -/

theorem fecMedia_of_stored {s : State} {m : SeqNum} {p : Bytes} (h : (fecInsert m p s).2 = true) :
    fecMedia m p s = fecAdvance (fecInsert m p s).1 := by
  unfold fecMedia
  split
  · next hi => rw [hi]
  · next hi => rw [hi] at h; cases h

theorem fecAdvance_of_fHi {s : State} {hi : SeqNum} (hhi : s.fHi = some hi) :
    fecAdvance s = deliver Config.seqSpace (recover s.fPar.length s) := by rw [fecAdvance, hhi]

/-! ## The first packet (R324, R337) -/

/-- The window with `m` alone, and the number delivered next. -/
def startedAt (m : SeqNum) (p : Bytes) (next : SeqNum) (s : State) : State :=
  { s with fHi := some m, fNext := some next, fStore := [(m.toNat, p)] }

theorem fecInsert_first {s : State} (hretain : 1 ≤ s.params.fecRetain) (hhi : s.fHi = none) (hstore : s.fStore = [])
    (m : SeqNum) (p : Bytes) : fecInsert m p s = (startedAt m p m s, true) := by
  have hkept : retained s.params m m = true := by
    rw [retained, dist_self]
    exact decide_eq_true hretain
  simp [fecInsert, hhi, fecStore, hstore, tableGet, tablePut, evict, hkept, startedAt]

/-- DELIVER of the first packet hands it over and stops: the number after it is neither stored nor overdue. -/
theorem deliver_startedAt (m : SeqNum) (p : Bytes) (s : State) :
    deliver Config.seqSpace (startedAt m p m s) = rtpDeliver m p (startedAt m p (m + 1#16) s) := by
  have hget : tableGet m.toNat (startedAt m p m s).fStore = some p := if_pos rfl
  have hsame := sameFec_rtpDeliver m p (startedAt m p (m + 1#16) s)
  have hmissing : tableGet (m + 1#16).toNat [(m.toNat, p)] = none := if_neg (by bv_omega)
  have hearly : ¬ overdue (rtpDeliver m p (startedAt m p (m + 1#16) s)) m (m + 1#16) := fun h => by
    have hbehind := h.1
    simp only [dist] at hbehind
    bv_omega
  calc deliver Config.seqSpace (startedAt m p m s)
    _ = if (rtpDeliver m p (startedAt m p (m + 1#16) s)).mode = .fatal then rtpDeliver m p (startedAt m p (m + 1#16) s)
        else deliver (65534 + 1) (rtpDeliver m p (startedAt m p (m + 1#16) s)) :=
      deliver_of_stored (65534 + 1) (s := startedAt m p m s) rfl rfl hget
    _ = rtpDeliver m p (startedAt m p (m + 1#16) s) := by
      rw [deliver_of_waiting 65534 hsame.fNext hsame.fHi (hsame.fStore ▸ hmissing) hearly, ite_self]

theorem fecMedia_first {s : State} (hvalid : s.params.Valid) (hpar : s.fPar = []) (hhi : s.fHi = none)
    (hstore : s.fStore = []) (m : SeqNum) (p : Bytes) :
    fecMedia m p s = rtpDeliver m p (startedAt m p (m + 1#16) s) := by
  obtain ⟨-, hretain, -⟩ := hvalid
  have hins := fecInsert_first hretain hhi hstore m p
  have hnone : (startedAt m p m s).fPar = [] := hpar
  rw [fecMedia_of_stored (by rw [hins]), hins, fecAdvance_of_fHi rfl, hnone]
  exact deliver_startedAt m p s

/-! ## A later packet (R324, R326) -/

section
variable {s : State} {hi q m : SeqNum} {p : Bytes} (hm : s.mode ≠ .fatal) (hs : FecInv s) (hhi : s.fHi = some hi)
  (hnext : s.fNext = some q) (hnew : stored s m = false)
  (htaken : (0 < dist hi m ∧ dist hi m < 32768) ∨ dist m hi < s.params.fecRetain)
include hm hs hhi hnext hnew htaken

/-- A number the window takes enters it, RECOVER runs from there, and DELIVER follows whatever RECOVER leaves. -/
theorem fecMedia_enters : ∃ s', s' = { s with fHi := s'.fHi, fStore := s'.fStore } ∧ windowWith hi m p s s' ∧ FecInv s' ∧
    ∀ hi', (recover s.fPar.length s').fHi = some hi' → deliversFrom hi' q (recover s.fPar.length s') (fecMedia m p s) := by
  obtain ⟨hframe, hstored, hin⟩ := fecInsert_enters p hs.1 hhi hnew htaken
  have hinv := fecInv_fecInsert hs m p
  rw [fecMedia_of_stored hstored]
  generalize (fecInsert m p s).1 = s' at hframe hin hinv
  have hpar : s'.fPar = s.fPar := by rw [hframe]
  have hrest := (recover_spec s.fPar.length s').rest
  refine ⟨s', hframe, hin, hinv, fun hi' hhi' => ?_⟩
  rw [fecAdvance_of_fHi hin.1, hpar]
  refine deliver_of_fecInv ?_ (fecInv_recover _ hinv) hhi' ?_
  · rw [hrest, hframe]
    exact hm
  · rw [hrest, hframe]
    exact hnext

/-- With parity waiting: the records and the window are made from one set of payloads, `m`'s among them. -/
theorem fecMedia_recovers {orig : SeqNum → Bytes} (hsettled : fecSettled s) (hp : p = orig m)
    (hfrom : fecFrom orig s.fPar s) (hturn : noTurn hi m s) (hturns : ∀ r ∈ s.fPar, ∀ o ∈ recGroup r, noTurn hi o s) :
    ∃ s' s'', s' = { s with fHi := s'.fHi, fStore := s'.fStore } ∧ windowWith hi m p s s' ∧
      (∀ hi', s'.fHi = some hi' → recoversFrom orig hi' s.fPar s' s'') ∧
      ∀ hi', s''.fHi = some hi' → deliversFrom hi' q s'' (fecMedia m p s) := by
  obtain ⟨s', hframe, hin, hinv, hdel⟩ := fecMedia_enters (p := p) hm hs hhi hnext hnew htaken
  obtain ⟨hvalid, -⟩ := hs
  obtain ⟨-, hretain, hhalf, -⟩ := hvalid
  obtain ⟨hwaiting, -⟩ := hsettled hi q hhi hnext
  have hlive : ¬ leftWindow hi m s := fun hleft => by
    have hback := dist_reverse hi m
    simp only [leftWindow] at hleft
    omega
  obtain ⟨k, hk, hmoves⟩ := headMoves_of_windowWith hretain (by rw [dist_self]; omega) (near_of_noTurn hlive hturn) hlive hin
  have hnear : ∀ r ∈ s.fPar, ∀ o ∈ recGroup r, Near s hi o := fun r hr o ho =>
    near_of_noTurn (not_leftWindow_of_inWindow (by rw [inWindow, (hwaiting r hr).1]; rfl) ho) (hturns r hr o ho)
  have hpar : s'.fPar = s.fPar := by rw [hframe]
  have hparams : s'.params = s.params := by rw [hframe]
  have horig : fecFrom orig s'.fPar s' := by
    obtain ⟨hstored, hparity⟩ := hfrom
    refine ⟨fun o x hx => ?_, hpar ▸ hparity⟩
    obtain ⟨rfl, rfl⟩ | hold := entry_of_windowWith hin hx
    · exact hp
    · exact hstored o x hold
  refine ⟨s', _, hframe, hin, fun hi' hhi' => ?_, hdel⟩
  obtain rfl : k = hi' := Option.some.inj (hk.symm.trans hhi')
  rw [← hpar]
  refine recover_recoversFrom_of_moved hinv hk (hparams ▸ hmoves.reach) (fun r hr o ho => ?_) horig
  rw [Near, hparams]
  exact hnear r (hpar ▸ hr) o ho

end

/-- Settles O56: the first packet is delivered at once (`fecMedia_first`); a later one enters the window, RECOVER does nothing
where no parity waits and rebuilds originals where it does, and DELIVER follows. -/
theorem firstMediaPacketStartsDelivery : Obligations.FirstMediaPacketStartsDelivery := by
  intro h payload s hm
  have hmedia : exec (.mainRtpFec (rtpBytes h ++ payload)) s = .next (fecMedia h.seq payload s) := by
    rw [exec_mainRtpFec hm, mainRtpFec_rtpBytes]
  refine ⟨fun hpar hvalid hhi _ hstore => ⟨_, hmedia, ?_, fun hnet hcfg hsize => ?_⟩,
    fun hi q hpar hs hhi hnext hnew htaken => ?_,
    fun orig hi q hs hsettled hhi hnext hnew htaken hp hfrom hturn hturns => ?_⟩
  · rw [fecMedia_first hvalid hpar hhi hstore]
    refine (exec_mainRtp (s := startedAt h.seq payload (h.seq + 1#16) s) hm _).trans ?_
    rw [mainRtp_rtpBytes]
  · have hfec : fecOn s = true := by rw [fecOn, hcfg]; decide
    have hrtp : rtpOn s = true := by rw [rtpOn, hcfg]; decide
    have hlen : (rtpBytes h ++ payload).length ≤ s.params.fecSlotBytes := by
      rwa [List.length_append, length_rtpBytes]
    rw [exec_dgramMain hnet (.inr hlen), mainDgram_fec hrtp hfec, mainRtpFec_rtpBytes]
  · obtain ⟨s', hframe, hin, -, hdel⟩ := fecMedia_enters (p := payload) hm hs hhi hnext hnew htaken
    rw [hpar] at hdel
    exact ⟨s', _, hmedia, hframe, hin, hdel⟩
  · obtain ⟨s', s'', hframe, hin, hrec, hdel⟩ :=
      fecMedia_recovers hm hs hhi hnext hnew htaken hsettled hp hfrom hturn hturns
    exact ⟨s', s'', _, hmedia, hframe, hin, hrec, hdel⟩

end Sys2Proof.Machine
end

section
/-! PROOFS. What a push does is decided by the tables, PKTBUF and whether the device is FATAL, and reports no fault of the RTP layer:
it commutes with every change of the rest of the state, another mode among them, and of the events already emitted. -/

namespace Sys2Proof.Machine

/-! ## Events of the RTP layer -/

/-- X16 and X17 (R303, R306). -/
def isRtpFault : Event → Bool
  | .exn (.x16 _) | .exn (.x17 _ _) => true
  | _ => false

/-- No fault of the RTP layer is among the events. -/
def NoRtpFault (es : List Event) : Prop := ∀ e ∈ es, isRtpFault e = false

theorem noRtpFault_nil : NoRtpFault [] := fun _ he => absurd he List.not_mem_nil

theorem noRtpFault_append {es fs : List Event} (h : NoRtpFault es) (h' : NoRtpFault fs) : NoRtpFault (es ++ fs) :=
  List.forall_mem_append.mpr ⟨h, h'⟩

theorem noRtpFault_cons {e : Event} {es : List Event} (h : isRtpFault e = false) (h' : NoRtpFault es) :
    NoRtpFault (e :: es) := List.forall_mem_cons.mpr ⟨h, h'⟩

theorem noRtpFault_singleton {e : Event} (h : isRtpFault e = false) : NoRtpFault [e] := noRtpFault_cons h noRtpFault_nil

theorem noRtpFault_ite {b : Bool} {es : List Event} (h : NoRtpFault es) : NoRtpFault (if b then es else []) := by
  split
  · exact h
  · exact noRtpFault_nil

theorem noRtpFault_descriptorEntries (src : Option Pid) (n : Nat) (bs : Bytes) :
    NoRtpFault (descriptorEntries src n bs) := by
  fun_induction descriptorEntries src n bs with
  | case1 | case2 => exact noRtpFault_nil
  | case3 | case4 => exact noRtpFault_singleton rfl
  | case5 _ _ _ _ _ ih => exact noRtpFault_cons rfl ih

theorem noRtpFault_descriptorLoop (src : Option Pid) (buf : Bytes) (pos : Nat) :
    NoRtpFault (descriptorLoop src buf pos) := by
  unfold descriptorLoop
  split
  · exact noRtpFault_singleton rfl
  · dsimp only
    split
    · exact noRtpFault_singleton rfl
    · exact noRtpFault_descriptorEntries _ _ _

/-- EV_SPLICE, what may follow it, and the descriptor loop. -/
theorem noRtpFault_reported (c : SpliceCall) (cmd : SpliceCommand) {notice : List Event} (h : NoRtpFault notice) (pos : Nat) :
    NoRtpFault ([evSplice c cmd] ++ notice ++ descriptorLoop c.src c.buf pos) :=
  noRtpFault_append (noRtpFault_append (noRtpFault_singleton rfl) h) (noRtpFault_descriptorLoop _ _ _)

theorem noRtpFault_parsedCommand (p : Parse SpliceCommand) (c : SpliceCall) : NoRtpFault (parsedCommand p c) := by
  unfold parsedCommand
  split
  · exact noRtpFault_singleton rfl
  · split
    · exact noRtpFault_singleton rfl
    · exact noRtpFault_reported _ _ (noRtpFault_ite (noRtpFault_singleton rfl)) _

theorem noRtpFault_opaqueCommand (mk : Bytes → SpliceCommand) {notice : List Event} (h : NoRtpFault notice)
    (c : SpliceCall) : NoRtpFault (opaqueCommand mk notice c) := by
  unfold opaqueCommand
  split
  · exact noRtpFault_singleton rfl
  · exact noRtpFault_reported _ _ h _

theorem noRtpFault_commandEvents (c : SpliceCall) : NoRtpFault (commandEvents c) := by
  unfold commandEvents
  repeat' split
  · exact noRtpFault_singleton rfl
  · exact noRtpFault_parsedCommand _ _
  · exact noRtpFault_opaqueCommand _ noRtpFault_nil _
  · exact noRtpFault_parsedCommand _ _
  · exact noRtpFault_parsedCommand _ _
  · exact noRtpFault_parsedCommand _ _
  · exact noRtpFault_opaqueCommand _ noRtpFault_nil _
  · exact noRtpFault_opaqueCommand _ (noRtpFault_singleton rfl) _

theorem noRtpFault_spliceEvents (src : Option Pid) (pcr : Option PcrEntry) (buf : Bytes) :
    NoRtpFault (spliceEvents src pcr buf) := by
  unfold spliceEvents withHeader
  split
  · exact noRtpFault_singleton rfl
  · split
    · exact noRtpFault_singleton rfl
    · exact noRtpFault_commandEvents _

/-! ## What a push does not see -/

/-- The operation commutes with the change of the state. -/
def Passes (c f : State → State) : Prop := ∀ s, f (c s) = c (f s)

/-- The state with other bytes waiting. -/
def withPktbuf (b : Bytes) (s : State) : State := { s with pktbuf := b }

/-- A change of the state that a push does not see: the tables, PKTBUF, the parameters and whether the device is FATAL stay, and
the change can as well be made after a write to a table or to PKTBUF, after events, and after the loss of synchronisation. -/
structure Unseen (c : State → State) : Prop where
  ft : ∀ s, (c s).ft = s.ft
  pcrreg : ∀ s, (c s).pcrreg = s.pcrreg
  pktbuf : ∀ s, (c s).pktbuf = s.pktbuf
  params : ∀ s, (c s).params = s.params
  fatal : ∀ s, (c s).mode = .fatal ↔ s.mode = .fatal
  passesSlot : ∀ p v, Passes c (setSlot p v)
  passesPcr : ∀ k e, Passes c (setPcr k e)
  passesPktbuf : ∀ b, Passes c (withPktbuf b)
  passesEvents : ∀ es, NoRtpFault es → Passes c (emitAll es)
  passesLoss : Passes c (raise .x02)

/-- Another mode in the place of every mode but FATAL. -/
def underMode (m : Mode) (s : State) : State := { s with mode := if s.mode = .fatal then .fatal else m }

theorem unseen_underMode {m : Mode} (h : m ≠ .fatal) : Unseen (underMode m) where
  ft _ := rfl
  pcrreg _ := rfl
  pktbuf _ := rfl
  params _ := rfl
  fatal s := by simp [underMode, h]
  passesSlot _ _ _ := rfl
  passesPcr _ _ _ := rfl
  passesPktbuf _ _ := rfl
  passesEvents _ _ _ := rfl
  passesLoss _ := rfl

/-- Another past. -/
def withPast (g : List Event → List Event) (s : State) : State := { s with events := g s.events }

/-- A change of the past that keeps what is appended, unless it is a fault of the RTP layer. -/
theorem unseen_withPast {g : List Event → List Event} (h : ∀ old es, NoRtpFault es → g (old ++ es) = g old ++ es) :
    Unseen (withPast g) where
  ft _ := rfl
  pcrreg _ := rfl
  pktbuf _ := rfl
  params _ := rfl
  fatal _ := Iff.rfl
  passesSlot _ _ _ := rfl
  passesPcr _ _ _ := rfl
  passesPktbuf _ _ := rfl
  passesEvents es hes s := by rw [emitAll, withPast, emitAll, withPast, h _ _ hes]
  passesLoss s := by rw [raise_fatal rfl, raise_fatal rfl, withPast, withPast, h _ _ (noRtpFault_singleton rfl)]

theorem passes_foldl {β : Type} {c : State → State} {step : State → β → State} (h : ∀ b, Passes c fun s => step s b)
    (bs : List β) : Passes c fun s => bs.foldl step s := by
  intro s
  induction bs generalizing s with
  | nil => rfl
  | cons b rest ih => exact (congrArg (rest.foldl step) (h b s)).trans (ih _)

section
variable {c : State → State} (hc : Unseen c)
include hc

/-! ## Reads and writes -/

theorem Unseen.slotAt (s : State) (p : Pid) : slotAt (c s) p = slotAt s p := by
  rw [Machine.slotAt, Machine.slotAt, hc.ft]

theorem Unseen.formAt (s : State) (p : Pid) : formAt (c s) p = formAt s p := congrArg Slot.form (hc.slotAt s p)

theorem Unseen.reasmAt (s : State) (p : Pid) : reasmAt (c s) p = reasmAt s p := congrArg Slot.reasm (hc.slotAt s p)

theorem Unseen.accAt (s : State) (p : Pid) : accAt (c s) p = accAt s p :=
  congrArg (Option.bind · Reasm.acc) (hc.reasmAt s p)

theorem Unseen.pcrAt (s : State) (k : Pid) : pcrAt (c s) k = pcrAt s k := by
  rw [Machine.pcrAt, Machine.pcrAt, hc.pcrreg]

/-- Every recoverable exception but X16 and X17 (R394). -/
theorem passes_raise {x : Exn} (hx : x.fatalCode = none) (h : isRtpFault (.exn x) = false) : Passes c (raise x) := fun s => by
  rw [raise_recoverable hx, raise_recoverable hx]
  exact hc.passesEvents [.exn x] (noRtpFault_singleton h) s

theorem passes_setReasm (p : Pid) (r : Reasm) : Passes c (setReasm p r) := fun s => by
  rw [setReasm, setReasm, hc.slotAt, hc.passesSlot]

theorem passes_setAcc (p : Pid) (a : Option Bytes) : Passes c (setAcc p a) := fun s => by
  unfold setAcc
  rw [hc.reasmAt]
  split
  · rfl
  · exact passes_setReasm hc p _ s

/-! ## Tables and sections -/

theorem passes_classify (p : Pid) (f : Form) : Passes c (classify p f) := fun s => by
  unfold classify
  rw [hc.formAt]
  split
  · rfl
  · exact hc.passesSlot p _ s

theorem passes_patSection (p : Pid) (sec : Bytes) : Passes c (patSection p sec) := fun s => by
  unfold patSection
  split
  · exact passes_raise hc rfl rfl s
  · exact passes_foldl (fun e => passes_classify hc _ _) _ s

theorem passes_applyPmt (p : Pid) (es : List (Pid × Bool)) : Passes c (applyPmt p es) := fun s => by
  have hstreams := passes_foldl (c := c) (step := fun s e => classify e.1 (streamForm p e) s)
    (fun e => passes_classify hc _ _) es
  unfold applyPmt
  rw [hc.pcrAt]
  split
  · rw [hc.passesPcr]
    exact hstreams _
  · exact hstreams s

theorem passes_pmtSection (p : Pid) (pn : BitVec 16) (sec : Bytes) : Passes c (pmtSection p pn sec) := fun s => by
  unfold pmtSection
  split
  · exact passes_raise hc rfl rfl s
  · exact passes_raise hc rfl rfl s
  · exact passes_applyPmt hc p _ s

theorem passes_complete (p : Pid) (sec : Bytes) : Passes c (complete p sec) := fun s => by
  unfold complete
  rw [hc.formAt]
  split
  · rfl
  split
  · exact passes_raise hc rfl rfl s
  split
  · exact passes_raise hc rfl rfl s
  cases formAt s p with
  | pat => exact passes_patSection hc p sec s
  | pmt pn => exact passes_pmtSection hc p pn sec s
  | scte35 e k =>
    rw [processSection, processSection, hc.pcrAt]
    exact hc.passesEvents _ (noRtpFault_spliceEvents _ _ _) s
  | empty | null | pcrWatch => rfl

/-! ## The reassembler -/

/-- An exception that drops the partial section. -/
theorem passes_drop {x : Exn} (hx : x.fatalCode = none) (h : isRtpFault (.exn x) = false) (p : Pid) :
    Passes c fun s => setAcc p none (raise x s) := fun s => by
  dsimp only
  rw [passes_raise hc hx h, passes_setAcc hc]

theorem feed_unseen (n : Nat) (p : Pid) (f : Form) (data : Bytes) (fresh : Bool) (s : State) :
    feed n p f data fresh (c s) = (c (feed n p f data fresh s).1, (feed n p f data fresh s).2) := by
  induction n generalizing data s with
  | zero => rfl
  | succ n ih =>
    unfold feed
    rw [hc.accAt]
    split
    · rfl
    split
    · rfl
    split
    · rw [passes_setAcc hc]
    · exact congrArg (·, false) (passes_drop hc rfl rfl p s)
    · simp only [passes_setAcc hc p _ _, passes_complete hc p _ _, hc.formAt]
      split
      · rfl
      · exact ih _ _

theorem passes_feed (n : Nat) (p : Pid) (f : Form) (data : Bytes) (fresh : Bool) :
    Passes c fun s => (feed n p f data fresh s).1 := fun s => congrArg Prod.fst (feed_unseen hc n p f data fresh s)

theorem passes_continuity (p : Pid) (cc : Cc) (r : Reasm) : Passes c (continuity p cc r) := fun s => by
  unfold continuity
  split
  · rw [passes_setReasm hc]
    exact passes_raise hc rfl rfl _
  · exact passes_setReasm hc p _ s

theorem passes_consumeStart (p : Pid) (f : Form) (ptr : Byte) (d : Bytes) : Passes c (consumeStart p f ptr d) := fun s => by
  have hrest : Passes c fun s => (feed (d.drop ptr.toNat).length p f (d.drop ptr.toNat) true s).1 := passes_feed hc _ p f _ true
  unfold consumeStart
  split
  · exact passes_drop hc rfl rfl p s
  simp only [hc.accAt, feed_unseen hc _ p f (d.take ptr.toNat)]
  split
  · exact hrest s
  split
  · rfl
  split
  · exact hrest _
  · rw [← hrest, ← passes_drop hc rfl rfl p]

theorem passes_consume (p : Pid) (pusi : BitVec 1) (cc : Cc) (d : Bytes) : Passes c (consume p pusi cc d) := fun s => by
  unfold consume
  rw [hc.reasmAt]
  split
  · rfl
  simp only [passes_continuity hc p cc _ _, hc.formAt, hc.accAt]
  split
  · split
    · rfl
    · exact passes_consumeStart hc p _ _ _ _
  · split
    · rfl
    · exact passes_feed hc _ p _ _ _ _

/-! ## Packets -/

theorem passes_routeSection (u : RouteUnit) : Passes c (routeSection u) := fun s => by
  unfold routeSection
  split
  · rfl
  · exact passes_consume hc _ _ _ _ s

theorem passes_routePcr (key : Pid) (u : RouteUnit) : Passes c (routePcr key u) := fun s => by
  unfold routePcr
  split
  · rfl
  · exact hc.passesPcr key _ s

theorem passes_routeBuilt (u : RouteUnit) : Passes c (routeBuilt u) := fun s => by
  have hsection := passes_routeSection hc u s
  unfold routeBuilt
  rw [hc.formAt]
  cases formAt s u.pid with
  | empty | null => rfl
  | pcrWatch key => exact passes_routePcr hc key u s
  | pat | pmt | scte35 => exact hsection

theorem passes_route (u : RouteUnit) : Passes c (route u) := fun s => by
  unfold route
  rw [hc.formAt]
  split
  · rw [construct, hc.passesSlot]
    exact passes_routeBuilt hc u _
  · exact passes_routeBuilt hc u s

theorem passes_packet (p : Bytes) : Passes c (packet p) := fun s => by
  unfold packet
  dsimp only
  split
  · exact passes_raise hc rfl rfl s
  split
  · exact passes_route hc _ s
  split
  · unfold adaptPacket
    split
    · exact passes_raise hc rfl rfl s
    · exact passes_route hc _ s
  · unfold adaptPayloadPacket
    split
    · exact passes_raise hc rfl rfl s
    · exact passes_route hc _ s

/-! ## Framing -/

theorem passes_afterPacket : Passes c afterPacket := fun s => by
  have hbuf := hc.passesPktbuf (s.pktbuf.drop Config.tsPkt) s
  rw [withPktbuf] at hbuf
  rw [afterPacket, hc.pktbuf, hbuf, passes_packet hc]
  rfl

theorem passes_afterFound (k : Nat) : Passes c (afterFound k) := fun s => by
  have hbuf := hc.passesPktbuf (s.pktbuf.drop k) s
  rw [withPktbuf] at hbuf
  rw [afterFound, hc.pktbuf, hbuf, passes_raise hc rfl rfl]
  rfl

theorem resync_unseen (s : State) : resync (c s) = (c (resync s).1, (resync s).2) := by
  have hhunt : hunt (c s).params.resyncWindow (c s).pktbuf = hunt s.params.resyncWindow s.pktbuf := by
    rw [hc.params, hc.pktbuf]
  unfold resync
  rw [hhunt]
  split
  · rfl
  · next k _ => exact congrArg (·, true) (passes_afterFound hc k s)
  · exact congrArg (·, false) (hc.passesLoss s)

theorem passes_frameLoop (n : Nat) : Passes c (frameLoop n) := fun s => by
  induction n generalizing s with
  | zero => rfl
  | succ n ih =>
    by_cases hm : s.mode = .fatal
    · rw [frameLoop, frameLoop, if_pos hm, if_pos ((hc.fatal s).mpr hm)]
    have hm' : (c s).mode ≠ .fatal := fun h => hm ((hc.fatal s).mp h)
    cases hbuf : s.pktbuf with
    | nil => rw [frameLoop_empty hbuf, frameLoop_empty ((hc.pktbuf s).trans hbuf)]
    | cons b rest =>
      by_cases hb : b = Config.syncByte
      · subst hb
        rw [frameLoop_onSync hm hbuf, frameLoop_onSync hm' ((hc.pktbuf s).trans hbuf), hc.pktbuf, passes_afterPacket hc, ih]
        exact (apply_ite c _ _ _).symm
      · have hoff : OffSync s := ⟨b, rest, hbuf, hb⟩
        have hoff' : OffSync (c s) := ⟨b, rest, (hc.pktbuf s).trans hbuf, hb⟩
        rw [frameLoop_offSync hm hoff, frameLoop_offSync hm' hoff', resync_unseen hc, ih]
        exact (apply_ite c _ _ _).symm

theorem passes_demuxPush (b : Bytes) : Passes c (demuxPush b) := fun s => by
  have hbuf := hc.passesPktbuf (s.pktbuf ++ b) s
  rw [withPktbuf] at hbuf
  rw [demuxPush, hc.pktbuf, hbuf, passes_frameLoop hc]
  rfl

end

/-! ## A push and the RTP layer -/

/-- A push appends events, and no fault of the RTP layer among them. -/
theorem demuxPush_appends (b : Bytes) (s : State) :
    ∃ es, (demuxPush b s).events = s.events ++ es ∧ NoRtpFault es := by
  have hpast : Unseen (withPast (s.events ++ ·)) :=
    unseen_withPast fun old es _ => (List.append_assoc s.events old es).symm
  have hdrop : Unseen (withPast (List.filter fun e => !isRtpFault e)) := unseen_withPast fun old es hes => by
    have hnews : es.filter (fun e => !isRtpFault e) = es := List.filter_eq_self.mpr fun e he => by rw [hes e he]; rfl
    rw [List.filter_append, hnews]
  have hevents := congrArg State.events (passes_demuxPush hpast b { s with events := [] })
  have hclean := congrArg State.events (passes_demuxPush hdrop b { s with events := [] })
  refine ⟨(demuxPush b { s with events := [] }).events, ?_, fun e he => ?_⟩
  · simpa only [withPast, List.append_nil] using hevents
  · rw [show (demuxPush b { s with events := [] }).events = _ from hclean] at he
    simpa using (List.mem_filter.mp he).2

/-- A push of nothing onto an empty PKTBUF. -/
theorem demuxPush_nil {s : State} (h : s.pktbuf = []) : demuxPush [] s = s := by
  have hsame : { s with pktbuf := s.pktbuf ++ [] } = s := by rw [List.append_nil]
  rw [demuxPush, hsame, frameLoop_empty h]

/-- Settles O51: both rows are a push, which goes under FILE as under NET (`unseen_underMode`). -/
theorem rawDatagramIsAPush : Obligations.RawDatagramIsAPush := by
  intro g s hnet hcfg
  have hm : s.mode ≠ .fatal := by simp [hnet]
  have hbit : ∀ i < 2, s.cfg.getLsbD (2 + i) = false := fun i hi => by
    have h := congrArg (BitVec.getLsbD · i) hcfg
    simpa [hi] using h
  have hfec : fecOn s = false := hbit 0 (by decide)
  have hrtp : rtpOn s = false := hbit 1 (by decide)
  have hraw := exec_mainRaw hm g
  obtain ⟨es, hes, hclean⟩ := demuxPush_appends g s
  obtain ⟨-, -, hlast, -⟩ := (pushed_demuxPush g s).frame
  refine ⟨⟨demuxPush g s, ?_, hraw, hlast, ?_⟩, fun t ht es' hes' x hx => ?_, fun hbuf => ?_⟩
  · rw [exec_dgramMain hnet (.inl hfec), mainDgram_raw hrtp, mainRaw]
  · have hfile : underMode .file s = { s with mode := .file } := by rw [underMode, if_neg hm]
    rw [exec_push rfl, ← hfile, passes_demuxPush (unseen_underMode (by decide))]
    rfl
  · obtain rfl : demuxPush g s = t := Host.Outcome.next.inj (hraw.symm.trans ht)
    obtain rfl : es = es' := List.append_cancel_left (hes.symm.trans hes')
    have hnone := hclean _ hx
    refine ⟨fun q hq => ?_, fun a b hab => ?_⟩
    · rw [hq] at hnone
      cases hnone
    · rw [hab] at hnone
      cases hnone
  · rw [exec_mainRaw hm, mainRaw, demuxPush_nil hbuf]

end Sys2Proof.Machine
end

section
/-! PROOFS. FEC.ADVANCE leaves a fixed point (R329, R330, R337): RECOVER stops with every record left waiting, DELIVER stops at a number
neither stored nor overdue, and what FEC.INSERT drops changes nothing. -/

namespace Sys2Proof.Machine

/-! ## The fixed point and its frame -/

/-- The FEC state is a fixed point, or the device is FATAL. -/
def SettledUnlessFatal (s : State) : Prop := s.mode ≠ .fatal → fecSettled s

/-- The fixed point speaks of the parameters and the FEC state only. -/
theorem fecSettled_of_sameFec {s t : State} (hs : fecSettled s) (h : SameFec s t) : fecSettled t := by
  obtain ⟨hparams, hhi, hnext, hstore, hpar⟩ := h
  unfold fecSettled
  rw [hparams, hhi, hnext, hstore, hpar]
  exact hs

/-- Before the first media packet there is nothing to recover or to deliver. -/
theorem fecSettled_of_fHi_eq_none {s : State} (h : s.fHi = none) : fecSettled s := fun hi _ hhi => by
  rw [h] at hhi
  cases hhi

theorem exists_fNext {s : State} (hs : FecInv s) {hi : SeqNum} (hhi : s.fHi = some hi) : ∃ q, s.fNext = some q := by
  obtain ⟨-, hboth, -⟩ := hs
  refine Option.ne_none_iff_exists'.mp fun h => ?_
  rw [hboth.mpr h] at hhi
  cases hhi

/-! ## RECOVER stops with every record left waiting (R330) -/

theorem waits_iff {p : Config.Params} {hi : SeqNum} {store : List (Nat × Bytes)} {r : ParityRec} :
    waits p hi store r = true ↔ dead p hi r = false ∧ 2 ≤ (missing store r).length := by simp [waits]

/-- A scan that rebuilds nothing keeps only records that wait. -/
theorem waits_of_mem_keep {p : Config.Params} {hi : SeqNum} {store : List (Nat × Bytes)} {rs : List ParityRec}
    (hhit : (scan p hi store rs).hit = none) {r : ParityRec} (hr : r ∈ (scan p hi store rs).keep) :
    waits p hi store r = true := by
  fun_induction scan p hi store rs with
  | case1 => cases hr
  | case2 _ _ _ ih | case3 _ _ _ _ ih | case4 _ _ _ _ _ _ ih => exact ih hhit hr
  | case5 => cases hhit
  | case6 x _ hx a b others hmissing ih =>
    obtain rfl | hr := List.mem_cons.mp hr
    · exact waits_iff.mpr ⟨Bool.eq_false_iff.mpr hx, by rw [hmissing]; exact Nat.le_add_left 2 others.length⟩
    · exact ih hhit hr

/-- RECOVER has no more to do. -/
def RecoveryDone (s : State) : Prop :=
  ∀ hi, s.fHi = some hi → ∀ r ∈ s.fPar, waits s.params hi s.fStore r = true

/-- With a pass for every record, RECOVER ends when a pass rebuilds nothing (R455). -/
theorem recoveryDone_recover (n : Nat) {s : State} {hi : SeqNum} (hhi : s.fHi = some hi) (hn : s.fPar.length ≤ n) :
    RecoveryDone (recover n s) := by
  induction n generalizing s hi with
  | zero =>
    intro _ _ r hr
    rw [recover, List.eq_nil_of_length_eq_zero (Nat.le_zero.mp hn)] at hr
    cases hr
  | succ n ih =>
    cases hhit : (scan s.params hi s.fStore s.fPar).hit with
    | none =>
      rw [recover_of_scan_none hhi n hhit]
      intro hi' hhi' r hr
      obtain rfl : hi = hi' := Option.some.inj (hhi.symm.trans hhi')
      exact waits_of_mem_keep hhit hr
    | some found =>
      obtain ⟨m, pay⟩ := found
      have hless := (scan_spec s.params hi s.fStore s.fPar).2 (by simp [hhit])
      have hpar : (fecInsert m pay (afterScan (scan s.params hi s.fStore s.fPar) s)).1.fPar =
          (scan s.params hi s.fStore s.fPar).keep := congrArg State.fPar (fecInsert_spec m pay _).rest
      rw [recover_of_scan_some hhi n hhit]
      exact ih (fecInsert_fHi (s := afterScan _ s) hhi m pay) (by rw [hpar]; omega)

/-! ## DELIVER stops at a number neither stored nor overdue (R337) -/

theorem fecSettled_of_deliversFrom {s t : State} {hi q : SeqNum} (hdone : RecoveryDone s) (hhi : s.fHi = some hi)
    (h : deliversFrom hi q s t) : SettledUnlessFatal t := by
  intro hm
  obtain ⟨n, -, ht, hstop⟩ := h
  obtain ⟨hmissing, hearly⟩ := (ht ▸ hstop).resolve_left (ht ▸ hm)
  rw [ht]
  refine fecSettled_of_sameFec (fun hi' q' hhi' hq => ?_) (sameFec_handedOver s q n)
  obtain rfl : hi = hi' := Option.some.inj (hhi.symm.trans hhi')
  obtain rfl : q + BitVec.ofNat 16 n = q' := Option.some.inj hq
  exact ⟨fun r hr => waits_iff.mp (hdone hi hhi r hr), hmissing, hearly⟩

/-- FEC.ADVANCE leaves a fixed point, unless a push was fatal (R329). -/
theorem settled_fecAdvance {s : State} (hm : s.mode ≠ .fatal) (hs : FecInv s) : SettledUnlessFatal (fecAdvance s) := by
  cases hhi : s.fHi with
  | none =>
    have hidle : fecAdvance s = s := by rw [fecAdvance, hhi]
    rw [hidle]
    exact fun _ => fecSettled_of_fHi_eq_none hhi
  | some hi =>
    rw [fecAdvance_of_fHi hhi]
    have hdone := recoveryDone_recover s.fPar.length hhi le_rfl
    have hrest := (recover_spec s.fPar.length s).rest
    have hinv := fecInv_recover s.fPar.length hs
    obtain ⟨q, hnext⟩ := exists_fNext hs hhi
    generalize recover s.fPar.length s = σ at hdone hrest hinv
    have hnext' : σ.fNext = some q := by rw [hrest]; exact hnext
    obtain ⟨hi', hhi'⟩ : ∃ hi', σ.fHi = some hi' := Option.ne_none_iff_exists'.mp fun h => by
      obtain ⟨-, hboth, -⟩ := hinv
      rw [hboth.mp h] at hnext'
      cases hnext'
    exact fecSettled_of_deliversFrom hdone hhi' (deliver_of_fecInv (by rw [hrest]; exact hm) hinv hhi' hnext')

/-! ## FEC.MEDIA (R323 to R325) -/

/-- The number is FEC_RETAIN or more behind F_HI and not newer, or F_STORE holds it (R324, R325). -/
def Dropped (hi m : SeqNum) (s : State) : Prop :=
  (s.params.fecRetain ≤ dist m hi ∧ ¬ (0 < dist hi m ∧ dist hi m < 32768)) ∨ stored s m = true

/-- FEC.INSERT of an old number or of one that is held: nothing is written, F_HI included. -/
theorem fecInsert_dropped {s : State} (hs : FecInv s) {hi m : SeqNum} (hhi : s.fHi = some hi) (hd : Dropped hi m s)
    (p : Bytes) : fecInsert m p s = (s, false) := by
  obtain ⟨-, -, -, hwin, -⟩ := id hs
  have hold : newer hi m = false := by
    rw [Bool.eq_false_iff]
    intro hn
    obtain ⟨-, hnot⟩ | hheld := hd
    · exact hnot (newer_iff.mp hn)
    · rw [stored, not_stored_of_newer hs hhi hn] at hheld
      cases hheld
  by_cases hin : dist m hi < s.params.fecRetain
  · have hheld : (tableGet m.toNat s.fStore).isSome = true := hd.resolve_left fun hout => Nat.not_lt.mpr hout.1 hin
    simp [fecInsert, hhi, hold, retained, hin, fecStore, hheld]
  · simp [fecInsert, hhi, hold, retained, hin]

theorem fecMedia_dropped {s : State} (hs : FecInv s) {hi m : SeqNum} (hhi : s.fHi = some hi) (hd : Dropped hi m s)
    (p : Bytes) : fecMedia m p s = s := by rw [fecMedia, fecInsert_dropped hs hhi hd]

/-- Settles O57: FEC.INSERT does not take such a number (`fecInsert_dropped`). -/
theorem oldAndDuplicateMediaAreDroppedSilently : Obligations.OldAndDuplicateMediaAreDroppedSilently := by
  intro h payload hi s hm hs hhi hdrop
  rw [exec_mainRtpFec hm, mainRtpFec_rtpBytes, fecMedia_dropped hs hhi hdrop]

/-- FEC.INSERT either takes the packet, and FEC.ADVANCE follows, or leaves the state. -/
theorem fecMedia_cases {s : State} (hs : FecInv s) (m : SeqNum) (p : Bytes) :
    fecMedia m p s = fecAdvance (fecInsert m p s).1 ∨ fecMedia m p s = s := by
  obtain ⟨hvalid, -, hempty, -⟩ := id hs
  cases hhi : s.fHi with
  | none => exact .inl (fecMedia_of_stored (by rw [fecInsert_first hvalid.2.1 hhi (hempty hhi)]))
  | some hi =>
    by_cases hd : Dropped hi m s
    · exact .inr (fecMedia_dropped hs hhi hd p)
    · obtain ⟨hin, hnew⟩ := not_or.mp hd
      have htaken : (0 < dist hi m ∧ dist hi m < 32768) ∨ dist m hi < s.params.fecRetain := by omega
      obtain ⟨-, hstored, -⟩ := fecInsert_enters p hvalid hhi (Bool.eq_false_iff.mpr hnew) htaken
      exact .inl (fecMedia_of_stored hstored)

theorem settled_fecMedia {s : State} (hm : s.mode ≠ .fatal) (hs : FecInv s) (hset : fecSettled s) (m : SeqNum) (p : Bytes) :
    SettledUnlessFatal (fecMedia m p s) := by
  obtain h | h := fecMedia_cases hs m p
  · rw [h]
    refine settled_fecAdvance ?_ (fecInv_fecInsert hs m p)
    rw [(fecInsert_spec m p s).rest]
    exact hm
  · rw [h]
    exact fun _ => hset

/-! ## FEC.PARITY (R327) -/

/-- The record joins the waiting ones and FEC.ADVANCE follows, whether or not media has come. -/
theorem fecParity_eq_fecAdvance {s : State} (hs : FecInv s) (r : ParityRec) : fecParity r s = fecAdvance (withRecord r s) := by
  obtain ⟨⟨-, -, -, -, -, hcap, -⟩, -⟩ := hs
  rw [fecParity, withRecord, waitingWith]
  congr 2
  rw [List.length_append, List.length_singleton]
  by_cases hroom : s.fPar.length < s.params.fecParCap
  · rw [if_pos hroom, if_neg (by omega)]
  · have hne : s.fPar ≠ [] := fun h0 => hroom (by rw [h0]; exact hcap)
    rw [if_neg hroom, if_pos (by omega), List.tail_append_of_ne_nil hne, List.drop_one]

section
variable {s : State} (hm : s.mode ≠ .fatal) (hs : FecInv s) (hset : fecSettled s)
include hm hs

theorem settled_fecParity {r : ParityRec} (hr : r.ok = true) : SettledUnlessFatal (fecParity r s) := by
  rw [fecParity_eq_fecAdvance hs]
  exact settled_fecAdvance hm (fecInv_withRecord hs hr)

/-! ## Datagrams (R321, R322, R341, R366) -/

include hset

theorem settled_mainRtpFec (g : Bytes) : SettledUnlessFatal (mainRtpFec g s) := by
  unfold mainRtpFec
  split
  · exact fun _ => fecSettled_of_sameFec hset (sameFec_raise _ s)
  · exact settled_fecMedia hm hs hset _ _

theorem settled_mainDgram (g : Bytes) : SettledUnlessFatal (mainDgram g s) := by
  unfold mainDgram
  split
  · exact fun _ => fecSettled_of_sameFec hset (sameFec_demuxPush g s)
  · split
    · exact fun _ => fecSettled_of_sameFec hset (sameFec_mainRtp g s)
    · exact settled_mainRtpFec hm hs hset g

theorem settled_parityDgram {port : Port} (hport : port ≠ .main) (g : Bytes) :
    SettledUnlessFatal (parityDgram port g s) := by
  unfold parityDgram
  split
  · exact fun _ => fecSettled_of_sameFec hset (sameFec_raise _ s)
  · next hu =>
    obtain ⟨hoff, hna⟩ := parseFec_eq_some hu
    exact settled_fecParity hm hs (parityRec_ok hport hoff hna)

end

section
variable {s t : State} (hset : fecSettled s) {act : State → State} (hact : SettledUnlessFatal (act s))
include hset hact

theorem settled_sizeChecked (port : Port) (g : Bytes) : SettledUnlessFatal (sizeChecked port g act s) := by
  unfold sizeChecked
  split
  · exact fun _ => fecSettled_of_sameFec hset (sameFec_raise _ s)
  · exact hact

theorem settled_of_command {code : Byte} {legal : Bool} (h : command code legal act s = .next t) :
    SettledUnlessFatal t := by
  obtain rfl | rfl | ⟨-, rfl⟩ := command_cases h
  · exact fun _ => hset
  · exact fun _ => fecSettled_of_sameFec hset (sameFec_raise _ s)
  · exact hact

end

/-! ## Every instruction and every request -/

section
variable {s t : State} (hm : s.mode ≠ .fatal) (hs : FecInv s) (hset : fecSettled s)
include hm hs hset

theorem settled_of_execDgramMain {g : Bytes} (h : execDgramMain g s = .next t) : SettledUnlessFatal t :=
  settled_of_command hset (settled_sizeChecked hset (settled_mainDgram hm hs hset g) .main g) h

/-- Every well-formed instruction but RESET, from a fixed point. -/
theorem settled_of_exec_live {i : Instr} (hwf : i.wf = true) (hi : i ≠ .reset) (h : exec i s = .next t) :
    SettledUnlessFatal t := by
  by_cases hw : writesFec i = false
  · exact fun _ => fecSettled_of_sameFec hset (sameFec_of_exec hw h)
  have hparity : ∀ (port : Port) (u : FecUnit), port ≠ .main → (u.offset != 0#8 && u.na != 0#8) = true →
      SettledUnlessFatal (fecParity (parityRec port u) s) := fun port u hport hu => by
    obtain ⟨hoff, hna⟩ := Bool.and_eq_true_iff.mp hu
    exact settled_fecParity hm hs (parityRec_ok hport (bne_iff_ne.mp hoff) (bne_iff_ne.mp hna))
  cases i with
  | reset => exact absurd rfl hi
  | dgramMain g => exact settled_of_execDgramMain hm hs hset h
  | dgramCol g | dgramRow g =>
    exact settled_of_command hset (settled_sizeChecked hset (settled_parityDgram hm hs hset (by decide) g) _ g) h
  | mainRtpFec g =>
    obtain rfl := Host.Outcome.next.inj ((exec_mainRtpFec hm g).symm.trans h)
    exact settled_mainRtpFec hm hs hset g
  | fecCol u =>
    obtain rfl := Host.Outcome.next.inj ((exec_fecParity hm u).1.symm.trans h)
    exact hparity .col u (by decide) hwf
  | fecRow u =>
    obtain rfl := Host.Outcome.next.inj ((exec_fecParity hm u).2.symm.trans h)
    exact hparity .row u (by decide) hwf
  | _ => exact absurd rfl hw

/-- A request of no row, from a fixed point: a main datagram as DGRAM.MAIN, any other leaves the FEC state. -/
theorem settled_of_offTable_live {r : Request} (h : offTable r s = .next t) : SettledUnlessFatal t := by
  by_cases hr : onMainPort r = false
  · obtain ⟨t', ht', hp⟩ := offTable_spec hr s
    obtain rfl : t' = t := Host.Outcome.next.inj (ht'.symm.trans h)
    exact fun _ => fecSettled_of_sameFec hset (hp.sameFec.trans ⟨rfl, rfl, rfl, rfl, rfl⟩)
  · cases r with
    | mainDgram g => exact settled_of_execDgramMain hm hs hset h
    | fec port g =>
      cases port with
      | main => exact settled_of_execDgramMain hm hs hset h
      | col | row => exact absurd rfl hr
    | _ => exact absurd rfl hr

end

section
variable {s t : State} (hs : FecInv s) (hset : SettledUnlessFatal s)
include hs hset

/-- RESET leaves the window empty, and in FATAL nothing else runs (R361, R370). -/
theorem settled_of_exec {i : Instr} (hwf : i.wf = true) (h : exec i s = .next t) : SettledUnlessFatal t := by
  by_cases hi : i = .reset
  · subst hi
    cases h
    exact fun _ => fecSettled_of_fHi_eq_none rfl
  by_cases hm : s.mode = .fatal
  · obtain rfl := Host.Outcome.next.inj ((exec_fatal hm hi).symm.trans h)
    exact hset
  · exact settled_of_exec_live hm hs (hset hm) hwf hi h

theorem settled_of_offTable {r : Request} (h : offTable r s = .next t) : SettledUnlessFatal t := by
  by_cases hm : s.mode = .fatal
  · obtain rfl := Host.Outcome.next.inj ((offTable_fatal hm r).symm.trans h)
    exact hset
  · exact settled_of_offTable_live hm hs (hset hm) h

end

/-- Settles O18: what writes the FEC state ends in FEC.ADVANCE, which leaves a fixed point (`settled_fecAdvance`), or in RESET. -/
theorem fecIsSettledBetweenTransactions : Obligations.FecIsSettledBetweenTransactions := by
  intro s t hs hset h
  cases hin : s.inbox with
  | nil =>
    obtain rfl := Host.Outcome.next.inj ((step_waiting hin).symm.trans h)
    exact hset
  | cons r rest =>
    have hsame : SameFec s { s with inbox := rest } := ⟨rfl, rfl, rfl, rfl, rfl⟩
    have hs' := hs.of_sameFec hsame
    have hset' : SettledUnlessFatal { s with inbox := rest } := fun hm => fecSettled_of_sameFec (hset hm) hsame
    cases hd : s.decodeRequest r with
    | instr i => exact settled_of_exec hs' hset' (wf_of_decode hd) ((step_instr hin hd).symm.trans h)
    | reject e => exact settled_of_offTable hs' hset' ((step_reject hin hd).symm.trans h)

end Sys2Proof.Machine
end

section
/-! PROOFS. FEC.PARITY from a fixed point (R327 to R334): the waiting records stay, so the one scan says what becomes of the new record,
and there is nothing to deliver. -/

namespace Sys2Proof.Machine

/-! ## A scan past waiting records (R333) -/

section
variable {p : Config.Params} {hi : SeqNum} {store : List (Nat × Bytes)}

theorem not_asksFor_of_waits {r : ParityRec} (h : waits p hi store r = true) (m : SeqNum) : ¬ asksFor p hi store r m :=
  fun ⟨_, hone⟩ => by
    have htwo := (waits_iff.mp h).2
    rw [hone] at htwo
    simp at htwo

/-- Records that wait stay, and the scan goes on behind them. -/
theorem scan_append_of_waits {rs : List ParityRec} (h : ∀ r ∈ rs, waits p hi store r = true) (more : List ParityRec) :
    scan p hi store (rs ++ more) =
      { scan p hi store more with keep := rs ++ (scan p hi store more).keep } := by
  induction rs with
  | nil => rfl
  | cons r rest ih =>
    obtain ⟨hr, hrest⟩ := List.forall_mem_cons.mp h
    rw [List.cons_append, scan_cons_of_idle (not_asksFor_of_waits hr), if_pos hr, ih hrest]
    rfl

/-- A record whose rebuild fails goes, with its port for X24 (R334). -/
theorem scan_of_failing {r : ParityRec} {m : SeqNum} (h : asksFor p hi store r m) (hfail : rebuild store r m = none) :
    scan p hi store [r] = { keep := [], failed := [r.port], hit := none } := by
  obtain ⟨hlive, hone⟩ := h
  simp [scan, hlive, hone, hfail, Scan.failing]

end

/-! ## REBUILD that fails (R335) -/

/-- A member longer than the parity payload ends the loop. -/
theorem rebuildFrom_eq_none {orig : SeqNum → Bytes} {store : List (Nat × Bytes)} {ms : List SeqNum}
    (hstored : ∀ o ∈ ms, tableGet o.toNat store = some (orig o)) (len : BitVec 16) {acc : Bytes}
    (hlong : ∃ o ∈ ms, acc.length < (orig o).length) : rebuildFrom store ms len acc = none := by
  induction ms generalizing len acc with
  | nil => simp at hlong
  | cons o rest ih =>
    obtain ⟨ho, hrest⟩ := List.forall_mem_cons.mp hstored
    rw [rebuildFrom, ho, Option.getD_some]
    split
    · rfl
    · next hfit =>
      obtain ⟨hlen, -⟩ := xorInto_spec (Nat.not_lt.mp hfit)
      refine ih hrest _ ?_
      rw [hlen]
      simpa [hfit] using hlong

/-- REBUILD fails where another member, or the recovered length, is longer than the parity payload. -/
theorem rebuild_eq_none {orig : SeqNum → Bytes} {store : List (Nat × Bytes)} {r : ParityRec} {m : SeqNum}
    (hstored : ∀ o ∈ recGroup r, o ≠ m → tableGet o.toNat store = some (orig o))
    (hlong : (∃ o ∈ recGroup r, o ≠ m ∧ r.payload.length < (orig o).length) ∨
      r.payload.length < (r.lenrec ^^^ parityLength (((recGroup r).filter fun o => o != m).map orig)).toNat) :
    rebuild store r m = none := by
  have hothers : ∀ o, o ∈ ((recGroup r).filter fun o => o != m) ↔ o ∈ recGroup r ∧ o ≠ m := fun o => by
    rw [List.mem_filter, bne_iff_ne]
  have hread : ∀ o ∈ ((recGroup r).filter fun o => o != m), tableGet o.toNat store = some (orig o) := fun o ho =>
    hstored o ((hothers o).mp ho).1 ((hothers o).mp ho).2
  rw [rebuild, members_eq]
  by_cases hmember : ∃ o ∈ recGroup r, o ≠ m ∧ r.payload.length < (orig o).length
  · obtain ⟨o, ho, hne, hlen⟩ := hmember
    rw [rebuildFrom_eq_none hread r.lenrec ⟨o, (hothers o).mpr ⟨ho, hne⟩, hlen⟩]
  · have hfits : ∀ o ∈ ((recGroup r).filter fun o => o != m), (orig o).length ≤ r.payload.length := fun o ho =>
      Nat.le_of_not_lt fun hlen => hmember ⟨o, ((hothers o).mp ho).1, ((hothers o).mp ho).2, hlen⟩
    obtain ⟨acc, hacc, hlen, -⟩ := rebuildFrom_spec hread r.lenrec hfits
    have hlength := hlong.resolve_left hmember
    rw [parityLength_eq] at hlength
    simp only [hacc, hlen, if_pos hlength]

/-! ## What a record is worth (R331 to R334) -/

section
variable {s : State} {hi : SeqNum} {r : ParityRec}

theorem scan_of_spent (h : Spent s hi s r) : scan s.params hi s.fStore [r] = { keep := [], failed := [], hit := none } := by
  have hidle : ∀ m, ¬ asksFor s.params hi s.fStore r m := fun m hasks => by
    obtain hleft | hall := h
    · obtain ⟨hlive, -⟩ := hasks
      rw [dead_iff.mpr hleft] at hlive
      cases hlive
    · obtain ⟨hm, hget⟩ := ((asksFor_spec hasks).1 m).mpr rfl
      have hst := hall m hm
      rw [stored, hget] at hst
      cases hst
  have hgoes : waits s.params hi s.fStore r = false := Bool.eq_false_iff.mpr fun hw => not_spent_of_waits hw h
  rw [scan_cons_of_idle hidle, hgoes]
  rfl

theorem live_of_inside (h : ∀ o ∈ recGroup r, dist o hi < s.params.fecRetain ∨ 32768 ≤ dist o hi) :
    dead s.params hi r = false := by
  refine Bool.eq_false_iff.mpr fun hdead => ?_
  obtain ⟨o, ho, hout, hbehind⟩ := dead_iff.mp hdead
  have hin := h o ho
  omega

theorem mem_missing_of_stored {o : SeqNum} (ho : o ∈ recGroup r) (h : stored s o = false) : o ∈ missing s.fStore r :=
  mem_missing_iff.mpr ⟨ho, by simpa [stored] using h⟩

theorem waits_of_two_missing (hlive : dead s.params hi r = false) {a b : SeqNum} (ha : a ∈ recGroup r)
    (hb : b ∈ recGroup r) (hab : a ≠ b) (hma : stored s a = false) (hmb : stored s b = false) :
    waits s.params hi s.fStore r = true := by
  have hsub : [a, b] ⊆ missing s.fStore r := by
    simp [mem_missing_of_stored ha hma, mem_missing_of_stored hb hmb]
  exact waits_iff.mpr ⟨hlive, (List.subperm_of_subset (by simp [hab]) hsub).length_le⟩

theorem asksFor_of_one_missing (hlive : dead s.params hi r = false) (hoff : r.offset ≠ 0#8) {m : SeqNum}
    (hm : m ∈ recGroup r) (hmissing : stored s m = false) (hothers : ∀ o ∈ recGroup r, o ≠ m → stored s o = true) :
    asksFor s.params hi s.fStore r m := by
  have hone : missing s.fStore r = (recGroup r).filter (· == m) := List.filter_congr fun o ho => by
    rw [Bool.eq_iff_iff, beq_iff_eq, ← Option.not_isSome, Bool.not_eq_true']
    refine ⟨fun hnot => ?_, fun h => h ▸ hmissing⟩
    by_contra hne
    have hst := hothers o ho hne
    rw [stored, hnot] at hst
    cases hst
  refine ⟨hlive, ?_⟩
  rw [hone, List.filter_beq, List.count_eq_one_of_mem (nodup_recGroup hoff) hm]
  rfl

end

/-! ## One more record at a fixed point -/

/-- The records that wait on when one more comes, the oldest giving way at FEC_PAR_CAP (R327). -/
def stillWaiting (s : State) : List ParityRec := if s.fPar.length < s.params.fecParCap then s.fPar else s.fPar.drop 1

theorem waitingWith_eq (r : ParityRec) (s : State) : waitingWith r s = stillWaiting s ++ [r] := rfl

theorem mem_of_mem_stillWaiting {s : State} {r : ParityRec} (h : r ∈ stillWaiting s) : r ∈ s.fPar := by
  unfold stillWaiting at h
  split at h
  · exact h
  · exact List.mem_of_mem_drop h

section
variable {s : State} {hi : SeqNum} {r : ParityRec} (hs : FecInv s) (hset : fecSettled s) (hhi : s.fHi = some hi)
include hs hset hhi

/-- What the scan makes of the new record alone is all that happens, if it rebuilds nothing. -/
theorem fecParity_of_no_hit (hhit : (scan s.params hi s.fStore [r]).hit = none) :
    fecParity r s = afterScan { scan s.params hi s.fStore [r] with
      keep := stillWaiting s ++ (scan s.params hi s.fStore [r]).keep } s := by
  obtain ⟨q, hnext⟩ := exists_fNext hs hhi
  obtain ⟨hwaiting, hmissing, hearly⟩ := hset hi q hhi hnext
  have hscan : scan s.params hi s.fStore (waitingWith r s) = { scan s.params hi s.fStore [r] with
      keep := stillWaiting s ++ (scan s.params hi s.fStore [r]).keep } := by
    rw [waitingWith_eq]
    exact scan_append_of_waits (fun x hx => waits_iff.mpr (hwaiting x (mem_of_mem_stillWaiting hx))) [r]
  have hpass : recover (waitingWith r s).length (withRecord r s) =
      afterScan (scan s.params hi s.fStore (waitingWith r s)) s := by
    obtain ⟨n, hn⟩ : ∃ n, (waitingWith r s).length = n + 1 := ⟨_, by rw [waitingWith_eq]; exact List.length_append⟩
    rw [hn]
    exact recover_of_scan_none (s := withRecord r s) hhi n ((congrArg Scan.hit hscan).trans hhit)
  rw [fecParity_eq hs hhi, hpass, hscan]
  have hnot : tableGet q.toNat s.fStore = none := by simpa using hmissing
  exact deliver_of_waiting 65535 (s := afterScan _ s) hnext hhi hnot hearly

/-- A record of no use goes without an event (R331, R332). -/
theorem fecParity_of_spent (h : Spent s hi s r) : fecParity r s = { s with fPar := stillWaiting s } := by
  have hscan := scan_of_spent h
  rw [fecParity_of_no_hit hs hset hhi (by rw [hscan]), hscan]
  simp [afterScan, withPar, emitAll]

/-- A record with two members missing stays (R333). -/
theorem fecParity_of_waits (h : waits s.params hi s.fStore r = true) : fecParity r s = withRecord r s := by
  have hscan : scan s.params hi s.fStore [r] = { keep := [r], failed := [], hit := none } :=
    scan_append_of_waits (rs := [r]) (by simpa using h) []
  rw [fecParity_of_no_hit hs hset hhi (by rw [hscan]), hscan]
  simp [afterScan, withPar, emitAll, withRecord, waitingWith_eq]

/-- A record whose rebuild fails goes with X24 (R334). -/
theorem fecParity_of_failing {m : SeqNum} (h : asksFor s.params hi s.fStore r m) (hfail : rebuild s.fStore r m = none) :
    fecParity r s = { s with fPar := stillWaiting s, events := s.events ++ [.exn (.x24 r.port)] } := by
  have hscan := scan_of_failing h hfail
  rw [fecParity_of_no_hit hs hset hhi (by rw [hscan]), hscan]
  simp [afterScan, withPar, emitAll]

end

/-- Before any media FEC.ADVANCE does nothing (R329). -/
theorem fecParity_of_fHi_eq_none {s : State} (hs : FecInv s) (hhi : s.fHi = none) (r : ParityRec) :
    fecParity r s = withRecord r s := by
  have hnone : (withRecord r s).fHi = none := hhi
  rw [fecParity_eq_fecAdvance hs, fecAdvance, hnone]

/-- Settles O59: what the scan makes of the new record is one of the three outcomes (`fecParity_of_spent`, `fecParity_of_waits`,
`fecParity_of_failing`). -/
theorem twoLossesAreNotRebuilt : Obligations.TwoLossesAreNotRebuilt := by
  intro u s hm hs hoff _ waiting kept gone failed
  have hrows : ∀ {answer : Port → Answer}, (∀ port, .next (fecParity (recordOf port u) s) = answer port) →
      exec (.fecCol u) s = answer .col ∧ exec (.fecRow u) s = answer .row := fun h =>
    ⟨(exec_fecParity hm u).1.trans (h .col), (exec_fecParity hm u).2.trans (h .row)⟩
  refine ⟨fun hhi => hrows (answer := kept) fun port => ?_,
    fun hi hset hhi huseless => hrows (answer := fun _ => gone) fun port => ?_,
    fun hi hset hhi hinside => ⟨fun a b ha hb hab hma hmb => hrows (answer := kept) fun port => ?_,
      fun m orig hmem hmissing hothers hlong => hrows (answer := failed) fun port => ?_⟩⟩
  · rw [fecParity_of_fHi_eq_none hs hhi]
    rfl
  · rw [fecParity_of_spent hs hset hhi (r := recordOf port u) huseless.symm]
    rfl
  · rw [fecParity_of_waits hs hset hhi (r := recordOf port u) (waits_of_two_missing (live_of_inside hinside) ha hb hab hma hmb)]
    rfl
  · have hasks : asksFor s.params hi s.fStore (recordOf port u) m :=
      asksFor_of_one_missing (live_of_inside hinside) hoff hmem hmissing fun o ho hne => stored_of_get (hothers o ho hne)
    rw [fecParity_of_failing hs hset hhi hasks (rebuild_eq_none hothers hlong)]
    rfl

end Sys2Proof.Machine
end

section
/-! PROOFS. The size check of the FEC ports (R341). -/

namespace Sys2Proof.Machine

theorem sizeChecked_oversize {port : Port} {g : Bytes} {s : State} (hfec : fecOn s = true)
    (h : s.params.fecSlotBytes < g.length) (act : State → State) :
    sizeChecked port g act s = { s with events := s.events ++ [.exn (.x21 port g.length)] } := by
  rw [sizeChecked, if_pos ⟨hfec, h⟩, raise_recoverable rfl]
  rfl

/-- Settles O54: the three ports share the size check (`sizeChecked_oversize`). -/
theorem oversizeDatagramIsRefused : Obligations.OversizeDatagramIsRefused := by
  intro g s hnet hcfg hlong refused
  have hm : s.mode ≠ .fatal := by simp [hnet]
  have hfec := (fecOn_iff s).mpr hcfg
  have hrefused : ∀ (code : Byte) (legal : Bool) (port : Port) (act : State → State), legal = true →
      command code legal (sizeChecked port g act) s = refused port := fun code legal port act hlegal => by
    rw [hlegal, command_legal hm, sizeChecked_oversize hfec hlong]
  exact ⟨hrefused 0x04#8 _ .main (mainDgram g) (by simp [hnet]),
    hrefused 0x05#8 _ .col (parityDgram .col g) (by simp [hnet, hfec]),
    hrefused 0x06#8 _ .row (parityDgram .row g) (by simp [hnet, hfec])⟩

end Sys2Proof.Machine
end

section
/-! PROOFS. RESET, CONFIG and EOF, and what each mode does with the commands it does not take (R361 to R370). -/

namespace Sys2Proof.Machine

/-! ## Refused and ignored commands (R369, R370) -/

/-- A command whose legality test fails is refused, whatever the test (R369). -/
theorem command_illegal {s : State} (hm : s.mode ≠ .fatal) {legal : Bool} (hlegal : legal = false) (code : Byte)
    (act : State → State) :
    command code legal act s = .next { s with events := s.events ++ [.exn (.x20 code)] } := by
  rw [hlegal]
  exact command_refused hm code act

theorem modeTest_eq_false {s : State} {m : Mode} (h : s.mode ≠ m) : (s.mode == m) = false := beq_eq_false_iff_ne.mpr h

/-- The parity ports are open in NET with ProMpeg only (R366). -/
theorem parityTest_eq_false {s : State} (h : s.mode ≠ .net ∨ s.cfg.extractLsb' 2 1 = 0#1) :
    (s.mode == .net && fecOn s) = false := by
  rcases h with hmode | hfec
  · rw [modeTest_eq_false hmode, Bool.false_and]
  · have hoff : ¬ fecOn s = true := by simp [fecOn_iff, hfec]
    rw [Bool.eq_false_of_not_eq_true hoff, Bool.and_false]

/-- Settles O9: nothing but RESET is processed in FATAL (`exec_fatal`). -/
theorem fatalIgnoresEveryCommandButReset : Obligations.FatalIgnoresEveryCommandButReset :=
  fun _ _ _ hm hi => exec_fatal hm hi

/-! ## RESET (R361) -/

/-- Settles O5: the power-on state is the state that RESET ends in from it, so one reading of `resetFrom` serves both. -/
theorem resetPutsEveryElementBack : Obligations.ResetPutsEveryElementBack := by
  refine fun s => ⟨resetFrom s, rfl, rfl, fun t' ht' => ?_⟩
  obtain ⟨u, rfl⟩ : ∃ u, t' = resetFrom u := by
    rcases ht' with rfl | rfl
    · exact ⟨s, rfl⟩
    · exact ⟨State.reset, rfl⟩
  exact ⟨rfl, rfl, rfl, rfl, fun _ => rfl, fun _ => rfl, rfl, rfl, rfl, rfl, rfl, status_eq (m := .idle) rfl rfl⟩

/-! ## CONFIG (R362) -/

theorem configure_idle {s : State} (hidle : s.mode = .idle) (cfg : Byte) (m : Mode) :
    configure cfg m s = .next { s with cfg := cfg, mode := m } := by
  rw [configure, beq_iff_eq.mpr hidle]
  exact command_legal (by simp [hidle]) _ _

theorem configure_refused {s : State} (hm : s.mode ≠ .fatal) (hidle : s.mode ≠ .idle) (cfg : Byte) (m : Mode) :
    configure cfg m s = .next { s with events := s.events ++ [.exn (.x20 0x01#8)] } :=
  command_illegal hm (modeTest_eq_false hidle) _ _

/-- CONFIG with an operand that selects a mode is the row of that operand. -/
theorem exec_config_selecting {cfg : Byte} {m : Mode} (h : configMode cfg = some m) (s : State) :
    exec (.config cfg) s = configure cfg m s := by
  show execConfig cfg s = _
  rw [execConfig, h]

/-- CONFIG is refused outside IDLE, and in IDLE where its operand selects no mode (R362, R365). -/
theorem exec_config_refused {s : State} (hm : s.mode ≠ .fatal) {cfg : Byte}
    (h : s.mode ≠ .idle ∨ configMode cfg = none) :
    exec (.config cfg) s = .next { s with events := s.events ++ [.exn (.x20 0x01#8)] } := by
  cases hmode : configMode cfg with
  | none =>
    show execConfig cfg s = _
    rw [execConfig, hmode]
    exact command_illegal hm rfl _ _
  | some m =>
    have hidle : s.mode ≠ .idle := h.resolve_right (by simp [hmode])
    rw [exec_config_selecting hmode]
    exact configure_refused hm hidle cfg m

theorem configMode_eq_none {cfg : Byte} (h : cfg ∉ [0x01#8, 0x02#8, 0x03#8, 0x0A#8, 0x0E#8]) : configMode cfg = none := by
  simp only [List.mem_cons, List.not_mem_nil, or_false, not_or] at h
  obtain ⟨hfile, hraw, hsec, hrtp, hfec⟩ := h
  simp only [configMode, if_neg hfile, if_neg hraw, if_neg hsec, if_neg hrtp, if_neg hfec]

/-- The mode an operand selects, read off its fields (R24, R362): a reserved path, a reserved bit, FEC or RTP off the
network path, and FEC without RTP select none. An operand is one byte, and every byte is tried. -/
theorem configMode_fields : ∀ cfg : Byte, configMode cfg =
    if cfg.extractLsb' 0 2 = 0#2 ∨ cfg.extractLsb' 4 4 ≠ 0#4 ∨
        (cfg.extractLsb' 0 2 ≠ 2#2 ∧ (cfg.extractLsb' 2 1 ≠ 0#1 ∨ cfg.extractLsb' 3 1 ≠ 0#1)) ∨
        (cfg.extractLsb' 0 2 = 2#2 ∧ cfg.extractLsb' 2 1 = 1#1 ∧ cfg.extractLsb' 3 1 = 0#1) then none
    else some (if cfg.extractLsb' 0 2 = 1#2 then .file else if cfg.extractLsb' 0 2 = 2#2 then .net else .sec) := by
  decide

/-- Settles O6: the operand's fields decide whether it selects a mode (`configMode_fields`), and that and MODE whether CONFIG
is refused. -/
theorem configStoresALegalOperandInIdle : Obligations.ConfigStoresALegalOperandInIdle := by
  intro cfg s path fec transport refuse
  refine ⟨fun hm => exec_fatal hm (by simp), fun hm hrefuse => ?_, fun hlegal => ?_⟩
  · exact exec_config_refused hm (hrefuse.imp_right fun hfields => (configMode_fields cfg).trans (if_pos hfields))
  · obtain ⟨hidle, hfields⟩ := not_or.mp hlegal
    rw [exec_config_selecting ((configMode_fields cfg).trans (if_neg hfields))]
    exact configure_idle (not_not.mp hidle) _ _

/-- Settles O7: a legal row is `configure`, and CONFIG.ILLEGAL is a command legal in no mode. -/
theorem configRowsAreTheirOperands : Obligations.ConfigRowsAreTheirOperands := by
  refine fun s => ⟨fun hidle => ?_, fun hidle hm => ?_, fun hm _ => command_illegal hm rfl _ fun s => s⟩
  · have hrow := configure_idle hidle
    exact ⟨hrow 0x01#8 .file, hrow 0x02#8 .net, hrow 0x03#8 .sec, hrow 0x0A#8 .net, hrow 0x0E#8 .net⟩
  · have hrow := configure_refused hm hidle
    simp only [List.forall_mem_cons]
    exact ⟨hrow 0x01#8 .file, hrow 0x02#8 .net, hrow 0x03#8 .sec, hrow 0x0A#8 .net, hrow 0x0E#8 .net, by simp⟩

/-- Settles O8: every clause is a command whose legality test fails (`command_illegal`). -/
theorem illegalCommandsChangeNothing : Obligations.IllegalCommandsChangeNothing := by
  intro s hm refused
  exact ⟨fun code _ _ => command_illegal hm rfl code fun s => s,
    fun hidle _ => exec_config_refused hm (.inl hidle),
    fun _ hcfg => exec_config_refused hm (.inr (configMode_eq_none hcfg)),
    fun hfile _ => command_illegal hm (modeTest_eq_false hfile) _ _,
    fun hfile => command_illegal hm (modeTest_eq_false hfile) _ _,
    fun hnet _ => command_illegal hm (modeTest_eq_false hnet) _ _,
    fun hport _ => command_illegal hm (parityTest_eq_false hport) _ _,
    fun hport _ => command_illegal hm (parityTest_eq_false hport) _ _,
    fun hsec b => command_illegal hm (modeTest_eq_false hsec) _ fun s => literalChecks b { s with mode := .done },
    fun hnet => command_illegal hm (modeTest_eq_false hnet) _ _⟩

/-! ## EOF (R364) -/

theorem endOfFile_eq (s : State) : endOfFile s = { s with
    pktbuf := [], mode := .done
    events := s.events ++ if s.pktbuf.length = 0 then [] else [.exn (.x03 s.pktbuf.length)] } := by
  by_cases hbuf : s.pktbuf = []
  · simp [endOfFile, hbuf]
  · simp [endOfFile, hbuf, raise_recoverable (x := .x03 s.pktbuf.length) rfl, emit]

/-- Settles O24: EOF is legal in FILE, and its operation is `endOfFile`. -/
theorem eofReportsTheRestAndEndsTheRun : Obligations.EofReportsTheRestAndEndsTheRun := by
  intro s hfile
  calc exec .eof s = command 0x03#8 (s.mode == .file) endOfFile s := rfl
    _ = .next (endOfFile s) := by rw [hfile]; exact command_legal (by simp [hfile]) _ _
    _ = _ := by rw [endOfFile_eq]

end Sys2Proof.Machine
end

section
/-! PROOFS. The checks of the literal path, one equation per outcome (R367), and the SEC rows that make them. -/

namespace Sys2Proof.Machine

/-! ## The checks in their order -/

/-- section_length is the low 12 bits of bytes 1 and 2 (R96). -/
theorem sectionLength_eq_append (b : Bytes) :
    sectionLength b = (byteAt b 1).extractLsb' 0 4 ++ byteAt b 2 := by
  rw [sectionLength, BitVec.extractLsb'_append_eq_ite]
  simp

theorem byteAt_take {b : Bytes} {n i : Nat} (h : i < n) : byteAt (b.take n) i = byteAt b i := by
  simp [byteAt, List.getD_eq_getElem?_getD, h]

section
variable {b : Bytes} (s : State)

/-- Under 3 bytes there is no header (R367). -/
theorem literalChecks_headless (h : b.length < 3) : literalChecks b s = emit (.exn (.x11 none)) s := by
  rw [literalChecks, if_pos h]
  rfl

/-- A declared length over the maximum (R198, R367). -/
theorem literalChecks_long (hhead : 3 ≤ b.length) (h : 4093 < (sectionLength b).toNat) :
    literalChecks b s = emit (.exn (.x05 none (sectionLength b))) s := by
  rw [literalChecks, if_neg (Nat.not_lt.mpr hhead)]
  exact if_pos h

/-- Fewer bytes than declared (R367). -/
theorem literalChecks_cut (hhead : 3 ≤ b.length) (hmax : (sectionLength b).toNat ≤ 4093)
    (h : b.length < 3 + (sectionLength b).toNat) : literalChecks b s = emit (.exn (.x11 none)) s := by
  have hlegal : ¬ Config.maxSectionLength < (sectionLength b).toNat := Nat.not_lt.mpr hmax
  simp only [literalChecks, if_neg (Nat.not_lt.mpr hhead), if_neg hlegal, if_pos h]
  rfl

/-- A whole section is left with its table_id and its CRC to check (R202, R201, R367). -/
theorem literalChecks_whole (hmax : (sectionLength b).toNat ≤ 4093) (h : 3 + (sectionLength b).toNat ≤ b.length) :
    literalChecks b s =
      let sec := b.take (3 + (sectionLength b).toNat)
      if byteAt b 0 ≠ 0xFC#8 then emit (.exn (.x09 none (byteAt b 0))) s
      else if crcGood sec = false then emit (.exn (.x08 none)) s
      else emitAll (spliceEvents none none (sec.take (sec.length - 4))) s := by
  have hhead : ¬ b.length < 3 := by omega
  have hlegal : ¬ Config.maxSectionLength < (sectionLength b).toNat := Nat.not_lt.mpr hmax
  have hfirst : byteAt (b.take (3 + (sectionLength b).toNat)) 0 = byteAt b 0 := byteAt_take (by omega)
  simp only [literalChecks, if_neg hhead, if_neg hlegal, if_neg (Nat.not_lt.mpr h), hfirst, Bool.not_eq_true']
  rfl

end

/-! ## The rows without a PID -/

/-- MODE has no part in the checks, and they leave it. -/
theorem literalChecks_withMode (b : Bytes) (m : Mode) (s : State) :
    literalChecks b { s with mode := m } = { literalChecks b s with mode := m } := by
  simp only [literalChecks]
  split_ifs <;> rfl

theorem literalChecks_mode (b : Bytes) (s : State) : (literalChecks b s).mode = s.mode := by
  obtain ⟨es, he⟩ := literalChecks_spec b s
  rw [he, emitAll_mode]

/-- Every SEC row without a PID makes the checks on the bytes it encodes, SEC.STUFFING among them (R367). -/
theorem exec_of_encode_literal {i : Instr} {b : Bytes} (h : encode i = .sec none b) (s : State) :
    exec i s = inUnit (literalChecks b) s := by
  cases i with
  | secPat | secPmt | secSplice | secStuffing | secOther => cases h; rfl
  | _ => cases h

/-- Settles O39: SECTION and the rows without a PID both run `literalChecks`, whose outcomes are stated above in order. -/
theorem literalPathChecksInOrder : Obligations.LiteralPathChecksInOrder := by
  refine fun b s => ⟨fun hsec => ?_, fun hm i hi => ?_⟩
  · intro sl sec only
    have hsl : sl = sectionLength b := (sectionLength_eq_append b).symm
    have honly : ∀ {x : Exn}, (∀ s, literalChecks b s = emit (.exn x) s) → only x := fun h =>
      (exec_literalSection hsec b).trans (congrArg _ (h _))
    simp only [sec]
    rw [hsl]
    exact ⟨fun hhead => honly (literalChecks_headless · hhead),
      fun hhead hlong => honly (literalChecks_long · hhead hlong),
      fun hhead hmax hcut => honly (literalChecks_cut · hhead hmax hcut),
      fun hwhole hmax htid => honly fun s => (literalChecks_whole s hmax hwhole).trans (if_pos htid),
      fun hwhole hmax htid hbad => honly fun s => (literalChecks_whole s hmax hwhole).trans
        ((if_neg (not_not.mpr htid)).trans (if_pos ((crcGood_eq_false_iff _).mpr hbad)))⟩
  · have hrow : encode i = .sec none b := encode_of_decodeSection (hi { form := .empty, cfg := 0#8 })
    refine ⟨literalChecks b s, ?_, literalChecks_mode b s, ?_⟩
    · rw [exec_of_encode_literal hrow, inUnit_live hm]
    · rw [exec_literalSection rfl, ← literalChecks_withMode]

end Sys2Proof.Machine
end
